-- ==== Sys2Proof/Word.lean ====
section
/-! DEFINITION. The two word widths of the machine (00_scope.md R5, R6): the byte of a V register, a timer and a
memory cell, and the 16-bit word of PC, I, a stack entry and an instruction. -/

namespace Sys2Proof

/-- 8 bits: V0..VF, DT, ST, a memory cell (R5 `XLEN`, `TIMER_WIDTH`). -/
abbrev Byte := BitVec 8

/-- 16 bits: PC (D2), I, a stack entry, an instruction word (R5, R37). -/
abbrev Word := BitVec 16

/-- A V register's index, 0..15; every index names a register (R9). -/
abbrev Reg := Fin 16

/-- `VF`, the register that six instructions also write as a flag (R10). -/
abbrev VF : Reg := 15

end Sys2Proof
end

