-- ==== Sys2Proof/Config.lean ====
section
/-! DEFINITION. What an implementation fixes (00_scope.md R5): the fixed sizes, the two OPEN parameters with the
spec's defaults, and the one free value, the random input. -/

namespace Sys2Proof.Config

/-- `MEM_SIZE` (R5, R24). -/
abbrev memSize : Nat := 4096

/-- `PC_RESET` and `PROG_BASE` (R5, R116). -/
abbrev programBase : Nat := 0x200

/-- `PROG_MAX` (R5, R33). -/
abbrev programMax : Nat := 3584

/-- The byte on the input `rnd` at its n-th sample (R21, R76; D16, log 5). A FREE VALUE: it has no body, so a
statement about it holds for every sequence of draws. -/
opaque rnd : Nat → Byte

end Sys2Proof.Config

namespace Sys2Proof

/-- The OPEN parameters of R5: "the model takes it as an argument". They ride in State, read only (log 1). -/
structure Params where
  /-- `STACK_DEPTH`: the capacity of the call stack; `none` is unbounded (R13, D3). -/
  stackDepth : Option Nat
  /-- `FONT`: the 80 bytes preloaded at 0x000 (R114, D5). -/
  font : Vector Byte 80
  deriving DecidableEq, Repr

/-- The default glyphs 0 to 7 (R114). PRESUMED: `[from general knowledge, not in source]`, log 3. -/
def Params.defaultGlyphsLow : List Byte :=
  [0xF0, 0x90, 0x90, 0x90, 0xF0] ++ [0x20, 0x60, 0x20, 0x20, 0x70] ++
  [0xF0, 0x10, 0xF0, 0x80, 0xF0] ++ [0xF0, 0x10, 0xF0, 0x10, 0xF0] ++
  [0x90, 0x90, 0xF0, 0x10, 0x10] ++ [0xF0, 0x80, 0xF0, 0x10, 0xF0] ++
  [0xF0, 0x80, 0xF0, 0x90, 0xF0] ++ [0xF0, 0x10, 0x20, 0x40, 0x40]

/-- The default glyphs 8 to F (R114). PRESUMED, log 3. -/
def Params.defaultGlyphsHigh : List Byte :=
  [0xF0, 0x90, 0xF0, 0x90, 0xF0] ++ [0xF0, 0x90, 0xF0, 0x10, 0xF0] ++
  [0xF0, 0x90, 0xF0, 0x90, 0x90] ++ [0xE0, 0x90, 0xE0, 0x90, 0xE0] ++
  [0xF0, 0x80, 0x80, 0x80, 0xF0] ++ [0xE0, 0x90, 0x90, 0x90, 0xE0] ++
  [0xF0, 0x80, 0xF0, 0x80, 0xF0] ++ [0xF0, 0x80, 0xF0, 0x80, 0x80]

/-- The spec's defaults: 16 stack entries (D3, log 2) and the hexadecimal font (R114, D5, log 3). Both PRESUMED. -/
def Params.default : Params where
  stackDepth := some 16
  font := ⟨(Params.defaultGlyphsLow ++ Params.defaultGlyphsHigh).toArray, by decide⟩

end Sys2Proof
end

