-- ==== Sys2Proof/Syntax.lean ====
section
/-! DEFINITION. The 34 instructions (30_encoding.md R42), one constructor per row of the opcode table, in its order.
Operands carry their width in their type (R38, R40): registers `Reg`, bytes `Byte`, addresses `BitVec 12`, the row
count `BitVec 4`; so there is no instruction with an operand that does not fit its field. -/

namespace Sys2Proof

inductive Instr where
  /-- `00E0` CLS (R84) -/
  | cls
  /-- `00EE` RET (R55) -/
  | ret
  /-- `1NNN` JP nnn (R56) -/
  | jp (nnn : BitVec 12)
  /-- `2NNN` CALL nnn (R57) -/
  | call (nnn : BitVec 12)
  /-- `3XNN` SE Vx, nn (R58) -/
  | seImm (x : Reg) (nn : Byte)
  /-- `4XNN` SNE Vx, nn (R59) -/
  | sneImm (x : Reg) (nn : Byte)
  /-- `5XY0` SE Vx, Vy (R60) -/
  | seReg (x y : Reg)
  /-- `6XNN` LD Vx, nn (R65) -/
  | ldImm (x : Reg) (nn : Byte)
  /-- `7XNN` ADD Vx, nn (R66) -/
  | addImm (x : Reg) (nn : Byte)
  /-- `8XY0` LD Vx, Vy (R67) -/
  | ldReg (x y : Reg)
  /-- `8XY1` OR Vx, Vy (R68) -/
  | orReg (x y : Reg)
  /-- `8XY2` AND Vx, Vy (R69) -/
  | andReg (x y : Reg)
  /-- `8XY3` XOR Vx, Vy (R70) -/
  | xorReg (x y : Reg)
  /-- `8XY4` ADD Vx, Vy (R71) -/
  | addReg (x y : Reg)
  /-- `8XY5` SUB Vx, Vy (R72) -/
  | subReg (x y : Reg)
  /-- `8XY6` SHR Vx (R73); `y` is in the word and the instruction ignores it (log 26) -/
  | shr (x y : Reg)
  /-- `8XY7` SUBN Vx, Vy (R74) -/
  | subnReg (x y : Reg)
  /-- `8XYE` SHL Vx (R75); `y` is in the word and the instruction ignores it (log 26) -/
  | shl (x y : Reg)
  /-- `9XY0` SNE Vx, Vy (R61) -/
  | sneReg (x y : Reg)
  /-- `ANNN` LD I, nnn (R78) -/
  | ldI (nnn : BitVec 12)
  /-- `BNNN` JP V0, nnn (R62) -/
  | jpV0 (nnn : BitVec 12)
  /-- `CXNN` RND Vx, nn (R76) -/
  | rnd (x : Reg) (nn : Byte)
  /-- `DXYN` DRW Vx, Vy, n (R85) -/
  | drw (x y : Reg) (n : BitVec 4)
  /-- `EX9E` SKP Vx (R87) -/
  | skp (x : Reg)
  /-- `EXA1` SKNP Vx (R88) -/
  | sknp (x : Reg)
  /-- `FX07` LD Vx, DT (R90) -/
  | ldVxDT (x : Reg)
  /-- `FX0A` LD Vx, K (R89) -/
  | ldVxK (x : Reg)
  /-- `FX15` LD DT, Vx (R91) -/
  | ldDTVx (x : Reg)
  /-- `FX18` LD ST, Vx (R92) -/
  | ldSTVx (x : Reg)
  /-- `FX1E` ADD I, Vx (R79) -/
  | addI (x : Reg)
  /-- `FX29` LD F, Vx (R80) -/
  | ldF (x : Reg)
  /-- `FX33` LD B, Vx (R81) -/
  | ldB (x : Reg)
  /-- `FX55` LD [I], Vx (R82) -/
  | storeRegs (x : Reg)
  /-- `FX65` LD Vx, [I] (R83) -/
  | loadRegs (x : Reg)
  deriving DecidableEq, Repr

end Sys2Proof
end

