-- ==== Sys2Proof/WellFormed.lean ====
section
/-! DEFINITION. The checks on what the machine is given. An INSTRUCTION term needs none: its operands' widths are
their types. What can be ill formed is: a WORD, which is canonical iff it matches a row of the opcode table
(00_scope.md glossary, 30_encoding.md R42); a program IMAGE, which must fit above 0x200 (20_memory.md R33); the
PARAMETERS, whose stack depth is a positive integer or unbounded (00_scope.md R5). -/

namespace Sys2Proof

/-- One row of the opcode map: its number and form, and the mask and match of its words (R42). -/
structure Row where
  number  : Nat
  form    : String
  mask    : Word
  pattern : Word
  deriving DecidableEq, Repr

/-- "a word `w` is the instruction of a row exactly when `w & mask = match`" (R42). -/
def Row.admits (r : Row) (w : Word) : Bool := w &&& r.mask == r.pattern

/-- Rows 1 to 9 of R42. -/
def opcodeRowsZeroToSeven : List Row :=
  [⟨1, "00E0", 0xFFFF, 0x00E0⟩, ⟨2, "00EE", 0xFFFF, 0x00EE⟩, ⟨3, "1NNN", 0xF000, 0x1000⟩,
   ⟨4, "2NNN", 0xF000, 0x2000⟩, ⟨5, "3XNN", 0xF000, 0x3000⟩, ⟨6, "4XNN", 0xF000, 0x4000⟩,
   ⟨7, "5XY0", 0xF00F, 0x5000⟩, ⟨8, "6XNN", 0xF000, 0x6000⟩, ⟨9, "7XNN", 0xF000, 0x7000⟩]

/-- Rows 10 to 18 of R42: family 8. -/
def opcodeRowsEight : List Row :=
  [⟨10, "8XY0", 0xF00F, 0x8000⟩, ⟨11, "8XY1", 0xF00F, 0x8001⟩, ⟨12, "8XY2", 0xF00F, 0x8002⟩,
   ⟨13, "8XY3", 0xF00F, 0x8003⟩, ⟨14, "8XY4", 0xF00F, 0x8004⟩, ⟨15, "8XY5", 0xF00F, 0x8005⟩,
   ⟨16, "8XY6", 0xF00F, 0x8006⟩, ⟨17, "8XY7", 0xF00F, 0x8007⟩, ⟨18, "8XYE", 0xF00F, 0x800E⟩]

/-- Rows 19 to 25 of R42: families 9 to E. -/
def opcodeRowsNineToE : List Row :=
  [⟨19, "9XY0", 0xF00F, 0x9000⟩, ⟨20, "ANNN", 0xF000, 0xA000⟩, ⟨21, "BNNN", 0xF000, 0xB000⟩,
   ⟨22, "CXNN", 0xF000, 0xC000⟩, ⟨23, "DXYN", 0xF000, 0xD000⟩, ⟨24, "EX9E", 0xF0FF, 0xE09E⟩,
   ⟨25, "EXA1", 0xF0FF, 0xE0A1⟩]

/-- Rows 26 to 34 of R42: family F. -/
def opcodeRowsF : List Row :=
  [⟨26, "FX07", 0xF0FF, 0xF007⟩, ⟨27, "FX0A", 0xF0FF, 0xF00A⟩, ⟨28, "FX15", 0xF0FF, 0xF015⟩,
   ⟨29, "FX18", 0xF0FF, 0xF018⟩, ⟨30, "FX1E", 0xF0FF, 0xF01E⟩, ⟨31, "FX29", 0xF0FF, 0xF029⟩,
   ⟨32, "FX33", 0xF0FF, 0xF033⟩, ⟨33, "FX55", 0xF0FF, 0xF055⟩, ⟨34, "FX65", 0xF0FF, 0xF065⟩]

/-- The opcode map of R42. -/
def opcodeTable : List Row :=
  opcodeRowsZeroToSeven ++ opcodeRowsEight ++ opcodeRowsNineToE ++ opcodeRowsF

/-- A canonical encoding: a word that matches a row; every other word is illegal (glossary, R43). -/
def canonicalWord (w : Word) : Bool := opcodeTable.any (·.admits w)

/-- The image of `load`: at most 3584 bytes (R33). -/
def imageFits (image : List Byte) : Bool := image.length ≤ Config.programMax

/-- `STACK_DEPTH` is "a positive integer or unbounded" (R5). -/
def Params.wellFormed (p : Params) : Bool := p.stackDepth != some 0

/-- The number of an instruction's row in R42. -/
def Instr.rowNumber : Instr → Nat
  | .cls => 1 | .ret => 2 | .jp _ => 3 | .call _ => 4 | .seImm _ _ => 5 | .sneImm _ _ => 6
  | .seReg _ _ => 7 | .ldImm _ _ => 8 | .addImm _ _ => 9 | .ldReg _ _ => 10 | .orReg _ _ => 11
  | .andReg _ _ => 12 | .xorReg _ _ => 13 | .addReg _ _ => 14 | .subReg _ _ => 15 | .shr _ _ => 16
  | .subnReg _ _ => 17 | .shl _ _ => 18 | .sneReg _ _ => 19 | .ldI _ => 20 | .jpV0 _ => 21
  | .rnd _ _ => 22 | .drw _ _ _ => 23 | .skp _ => 24 | .sknp _ => 25 | .ldVxDT _ => 26
  | .ldVxK _ => 27 | .ldDTVx _ => 28 | .ldSTVx _ => 29 | .addI _ => 30 | .ldF _ => 31
  | .ldB _ => 32 | .storeRegs _ => 33 | .loadRegs _ => 34

end Sys2Proof
end

