-- ==== Sys2Proof/Decode.lean ====
section
/-! DEFINITION. The decoder (30_encoding.md R37, R38), the choice of the instruction by family and selector (R41), the
rejection of every other word by name (R43), and the encoder (R39, R42). -/

namespace Sys2Proof

/-- The six fields of an instruction word; "All six are produced for every word" (R38). -/
structure Fields where
  op  : BitVec 4
  x   : Reg
  y   : Reg
  n   : BitVec 4
  nn  : Byte
  nnn : BitVec 12
  deriving DecidableEq, Repr

/-- The high nibble of a byte. -/
def highNibble (b : Byte) : BitVec 4 := b.extractLsb' 4 4

/-- The low nibble of a byte. -/
def lowNibble (b : Byte) : BitVec 4 := b.extractLsb' 0 4

/-- `w[15:8]`, the byte at the lower address: fetch is big-endian (R27, R37). -/
def highByte (w : Word) : Byte := w.extractLsb' 8 8

/-- `w[7:0]`, the byte at the higher address (R27, R37). -/
def lowByte (w : Word) : Byte := w.extractLsb' 0 8

/-- "given two consecutive program bytes (b1, b2), produce a structured view with fields"; pure and total (R38). -/
def decodeFields (b1 b2 : Byte) : Fields where
  op  := highNibble b1
  x   := (lowNibble b1).toFin
  y   := (highNibble b2).toFin
  n   := lowNibble b2
  nn  := b2
  nnn := lowNibble b1 ++ b2

/-- Family 0: the whole word is the selector (R41, R44). -/
def selectZero (f : Fields) : Option Instr :=
  match f.nnn with
  | 0x0E0#12 => some .cls
  | 0x0EE#12 => some .ret
  | _ => none

/-- Family 8: the selector is `n` (R41). -/
def selectEight (f : Fields) : Option Instr :=
  match f.n with
  | 0x0#4 => some (.ldReg f.x f.y)
  | 0x1#4 => some (.orReg f.x f.y)
  | 0x2#4 => some (.andReg f.x f.y)
  | 0x3#4 => some (.xorReg f.x f.y)
  | 0x4#4 => some (.addReg f.x f.y)
  | 0x5#4 => some (.subReg f.x f.y)
  | 0x6#4 => some (.shr f.x f.y)
  | 0x7#4 => some (.subnReg f.x f.y)
  | 0xE#4 => some (.shl f.x f.y)
  | _ => none

/-- Family E: the selector is `nn` (R41). -/
def selectE (f : Fields) : Option Instr :=
  match f.nn with
  | 0x9E#8 => some (.skp f.x)
  | 0xA1#8 => some (.sknp f.x)
  | _ => none

/-- Family F: the selector is `nn` (R41). -/
def selectF (f : Fields) : Option Instr :=
  match f.nn with
  | 0x07#8 => some (.ldVxDT f.x)
  | 0x0A#8 => some (.ldVxK f.x)
  | 0x15#8 => some (.ldDTVx f.x)
  | 0x18#8 => some (.ldSTVx f.x)
  | 0x1E#8 => some (.addI f.x)
  | 0x29#8 => some (.ldF f.x)
  | 0x33#8 => some (.ldB f.x)
  | 0x55#8 => some (.storeRegs f.x)
  | 0x65#8 => some (.loadRegs f.x)
  | _ => none

/-- The choice of the instruction, on `op` first, then on the family's selector (R41). -/
def select (f : Fields) : Option Instr :=
  match f.op with
  | 0x0#4 => selectZero f
  | 0x1#4 => some (.jp f.nnn)
  | 0x2#4 => some (.call f.nnn)
  | 0x3#4 => some (.seImm f.x f.nn)
  | 0x4#4 => some (.sneImm f.x f.nn)
  | 0x5#4 => if f.n = 0 then some (.seReg f.x f.y) else none
  | 0x6#4 => some (.ldImm f.x f.nn)
  | 0x7#4 => some (.addImm f.x f.nn)
  | 0x8#4 => selectEight f
  | 0x9#4 => if f.n = 0 then some (.sneReg f.x f.y) else none
  | 0xA#4 => some (.ldI f.nnn)
  | 0xB#4 => some (.jpV0 f.nnn)
  | 0xC#4 => some (.rnd f.x f.nn)
  | 0xD#4 => some (.drw f.x f.y f.n)
  | 0xE#4 => selectE f
  | 0xF#4 => selectF f
  | _ => none

/-- Why bytes are no instruction. -/
inductive Reject where
  /-- The word matches no row of the opcode map (R43). -/
  | unknownInstruction (w : Word)
  /-- Fewer than two bytes: every instruction is exactly 2 bytes (R37). -/
  | truncated
  deriving DecidableEq, Repr

/-- What the decoder answers. -/
inductive Decoded where
  | ok (i : Instr)
  | error (why : Reject)
  deriving DecidableEq, Repr

/-- The instruction of a word, or its rejection by name (R41, R43). -/
def decodeWord (w : Word) : Decoded :=
  match select (decodeFields (highByte w) (lowByte w)) with
  | some i => .ok i
  | none => .error (.unknownInstruction w)

/-- The instruction at the head of a list of bytes, with the bytes after it (R37). -/
def decodeBytes : List Byte → Decoded × List Byte
  | b1 :: b2 :: rest => (decodeWord (b1 ++ b2), rest)
  | bytes => (.error .truncated, bytes)

/-! ## The encoder (R39, R42) -/

/-- A register index in a word's nibble. -/
def regBits (x : Reg) : BitVec 4 := BitVec.ofFin x

/-- Format A: `op`, `nnn` (R39). -/
def formatA (op : BitVec 4) (nnn : BitVec 12) : Word := op ++ nnn

/-- Formats I and X: `op`, `x`, a byte that is the immediate or the selector (R39). -/
def formatI (op : BitVec 4) (x : Reg) (nn : Byte) : Word := op ++ (regBits x ++ nn)

/-- Formats R and D: `op`, `x`, `y`, a nibble that is the selector or the immediate (R39). -/
def formatR (op : BitVec 4) (x y : Reg) (n : BitVec 4) : Word := op ++ (regBits x ++ (regBits y ++ n))

/-- The word of an instruction (R39, R42). -/
def encode : Instr → Word
  | .cls => 0x00E0
  | .ret => 0x00EE
  | .jp nnn => formatA 0x1 nnn
  | .call nnn => formatA 0x2 nnn
  | .seImm x nn => formatI 0x3 x nn
  | .sneImm x nn => formatI 0x4 x nn
  | .seReg x y => formatR 0x5 x y 0x0
  | .ldImm x nn => formatI 0x6 x nn
  | .addImm x nn => formatI 0x7 x nn
  | .ldReg x y => formatR 0x8 x y 0x0
  | .orReg x y => formatR 0x8 x y 0x1
  | .andReg x y => formatR 0x8 x y 0x2
  | .xorReg x y => formatR 0x8 x y 0x3
  | .addReg x y => formatR 0x8 x y 0x4
  | .subReg x y => formatR 0x8 x y 0x5
  | .shr x y => formatR 0x8 x y 0x6
  | .subnReg x y => formatR 0x8 x y 0x7
  | .shl x y => formatR 0x8 x y 0xE
  | .sneReg x y => formatR 0x9 x y 0x0
  | .ldI nnn => formatA 0xA nnn
  | .jpV0 nnn => formatA 0xB nnn
  | .rnd x nn => formatI 0xC x nn
  | .drw x y n => formatR 0xD x y n
  | .skp x => formatI 0xE x 0x9E
  | .sknp x => formatI 0xE x 0xA1
  | .ldVxDT x => formatI 0xF x 0x07
  | .ldVxK x => formatI 0xF x 0x0A
  | .ldDTVx x => formatI 0xF x 0x15
  | .ldSTVx x => formatI 0xF x 0x18
  | .addI x => formatI 0xF x 0x1E
  | .ldF x => formatI 0xF x 0x29
  | .ldB x => formatI 0xF x 0x33
  | .storeRegs x => formatI 0xF x 0x55
  | .loadRegs x => formatI 0xF x 0x65

/-- The instruction as it stands in memory, high byte first (R27). -/
def encodeBytes (i : Instr) : List Byte := [highByte (encode i), lowByte (encode i)]

/-- The decoder on a word given as the opcode table numbers its bits: `nbits` bits, every higher bit 0, laid out as
the hardware stores it, high byte at the lower address (R27). -/
def decodeTableWord (nbits w : Nat) : Option Instr :=
  let word : Word := BitVec.ofNat 16 (w % 2 ^ nbits)
  match (decodeBytes [highByte word, lowByte word]).1 with
  | .ok i => some i
  | .error _ => none

end Sys2Proof
end

