-- ==== Sys2Proof/Machine/State.lean ====
section
/-! DEFINITION. The state of the block (10_state.md R9 to R21: "Nothing else is state", R17), its value after reset
(R23, 70_reset_and_hazards.md R113), and the reasons a step of the model can stop. -/

namespace Sys2Proof.Machine

/-- The five causes of a fault, all fatal (60_exceptions.md R93), with the extra information the record holds.
Raising one is no stop of the model: it sets the latch (R100, log 9). -/
inductive Cause where
  /-- 1: dispatch of a word that matches no row (R94). -/
  | unknownInstruction
  /-- 2: `00EE` on an empty call stack (R95). -/
  | stackUnderflow
  /-- 3: fetch, `DXYN`, `FX33`, `FX55`, `FX65`: `addr` is the first address that is 4096 or more (R96, R99). -/
  | memOutOfBounds (addr : Nat)
  /-- 4: `EX9E`, `EXA1` with Vx = `value` > 15 (R97). -/
  | badKeyIndex (value : Byte)
  /-- 5: `2NNN` on a full call stack (R98). -/
  | stackOverflow
  deriving DecidableEq, Repr

/-- The record of the fault latch: `{cause, opcode, pc0}`; the opcode is absent when the fetch itself faulted (R16). -/
structure FaultRecord where
  cause  : Cause
  opcode : Option Word
  pc0    : Word
  deriving DecidableEq, Repr

/-- One operation of the driver: the five of 00_scope.md R8. -/
inductive Move where
  /-- `step` (R47). -/
  | step
  /-- `tick` (R103). -/
  | tick
  /-- `key_set(k, pressed)` (R104). -/
  | keySet (k : Fin 16) (pressed : Bool)
  /-- `reset` (R113). -/
  | reset
  /-- `load(image)` (R33), specified between `reset` and the first `step` (R115, D20, log 7). -/
  | load (image : List Byte)
  deriving DecidableEq, Repr

/-- The pixels, row-major: row y (0..31), column x (0..63) (R19). -/
abbrev Framebuffer := Vector (Vector Bool 64) 32

/-- The bytes that differ from the reset contents, at strictly rising addresses (R18; the canonical form is
`Memory.wf` of Machine/Memory.lean). -/
abbrev Memory := List Host.Cell

/-- All the state of the block (R9 to R20), and the model's own last four fields (logs 1, 5, 6, 7). -/
structure State where
  /-- V0..VF (R9). -/
  V        : Vector Byte 16
  /-- The index register (R12). -/
  I        : Word
  /-- The program counter (R11). -/
  pc       : Word
  /-- The call stack, oldest entry first (R13). -/
  stack    : List Word
  /-- The delay timer (R14). -/
  DT       : Byte
  /-- The sound timer (R15). -/
  ST       : Byte
  /-- The framebuffer (R19). -/
  fb       : Framebuffer
  /-- The keypad: `true` is pressed (R20). -/
  key      : Vector Bool 16
  /-- Memory (R18). -/
  mem      : Memory
  /-- The fault latch (R16). -/
  fault    : Option FaultRecord
  /-- MODEL'S OWN: the OPEN parameters, read only (R5, log 1). -/
  params   : Params
  /-- MODEL'S OWN: how many samples of `rnd` have been taken (R21, log 5). -/
  draws    : Nat
  /-- MODEL'S OWN: the driver's moves to come; when it is empty every move is `step` (R108, log 6). -/
  schedule : List Move
  /-- MODEL'S OWN: the driver has called `step` since the last `reset`, so `load` is over (R115, D20, log 7). -/
  stepped  : Bool
  deriving DecidableEq, Repr

/-- No step of this model answers a fault: each of the five faults of R93 is a next state with the latch set
(R100, log 9), and a halted step is a next state too (R47). So this type has no constructor. -/
inductive Fault where
  deriving DecidableEq, Repr

/-- The reasons a move is not accepted. -/
inductive Refusal where
  /-- Raised by an arm of `exec` that has no meaning yet; no arm does. Safe: the run stops. -/
  | notModelled (mnemonic : String)
  /-- Raised by the move `load` (never by an instruction) for an image of more than 3584 bytes: "a model refuses it"
  (R33, D20, log 7). Safe: the run stops. -/
  | imageTooLong
  /-- Raised by the move `load` (never by an instruction) when a `step` has been called since the last `reset` (R33, D20,
  93_implementation_defined.md U18: refuse; log 7). Safe: the run stops. -/
  | loadAfterStep
  deriving DecidableEq, Repr

/-- `reset`'s state for given parameters (R23, R113): everything 0, empty or released, PC = 0x200, memory as its
reset contents (nothing listed), no fault. -/
def State.resetWith (p : Params) : State where
  V        := Vector.replicate 16 0
  I        := 0
  pc       := 0x200
  stack    := []
  DT       := 0
  ST       := 0
  fb       := Vector.replicate 32 (Vector.replicate 64 false)
  key      := Vector.replicate 16 false
  mem      := []
  fault    := none
  params   := p
  draws    := 0
  schedule := []
  stepped  := false

/-- The machine right after reset, with the spec's default parameters (R23, R113; logs 2, 3, 4). -/
def State.reset : State := State.resetWith Params.default

end Sys2Proof.Machine
end

