-- ==== Sys2Proof/Machine/Memory.lean ====
section
/-! DEFINITION. Memory as plain data in one canonical form (10_state.md R18, 20_memory.md R24, R25): the cells whose
byte differs from the reset contents, at strictly rising addresses. -/

namespace Sys2Proof.Machine

/-- What an unlisted address reads as: the reset contents, FONT at 0x000..0x04F and 0 elsewhere (R23, R30; log 4). -/
def unlisted (p : Params) (a : Nat) : Byte := if h : a < 80 then p.font[a] else 0

/-- The byte at an address (R25, without the bound, which `firstOutOfRange` of Ops.lean checks). -/
def Memory.read (d : Nat → Byte) : Memory → Nat → Byte
  | [], a => d a
  | (b, u) :: m, a => if a = b then u else if a < b then d a else Memory.read d m a

/-- The memory with one byte changed (R25: "a write changes exactly the addressed byte"). Writing what an unlisted
address reads as removes the entry. -/
def Memory.write (d : Nat → Byte) : Memory → Nat → Byte → Memory
  | [], a, v => if v = d a then [] else [(a, v)]
  | (b, u) :: m, a, v =>
    if a = b then (if v = d a then m else (a, v) :: m)
    else if a < b then (if v = d a then (b, u) :: m else (a, v) :: (b, u) :: m)
    else (b, u) :: Memory.write d m a v

/-- Bytes written at ascending addresses (R27, R33). -/
def Memory.writeBytes (d : Nat → Byte) : Memory → Nat → List Byte → Memory
  | m, _, [] => m
  | m, a, v :: vs => Memory.writeBytes d (m.write d a v) (a + 1) vs

/-- The canonical form above address `lo`: addresses in [lo, 4096), strictly rising, no entry equal to what an
unlisted address reads as. -/
def Memory.wfFrom (d : Nat → Byte) : Nat → Memory → Bool
  | _, [] => true
  | lo, (b, u) :: m => decide (lo ≤ b) && decide (b < Config.memSize) && (u != d b) && Memory.wfFrom d (b + 1) m

/-- The canonical form of a memory. -/
def Memory.wf (p : Params) (m : Memory) : Bool := m.wfFrom (unlisted p) 0

end Sys2Proof.Machine
end

