-- ==== Sys2Proof/Machine/Ops.lean ====
section
/-! DEFINITION. The named operations over the state: one update per field, registers, program counter, call stack,
memory, and TAKING A FAULT, the machine's only exception (60_exceptions.md R100). -/

namespace Sys2Proof.Machine

/-- The three outcomes of an instruction or a step. -/
abbrev Result := Host.Outcome State Fault Refusal

namespace State

/-! ## One update per field -/

def setV (s : State) (x : Reg) (v : Byte) : State := { s with V := s.V.set x v }
def setRegs (s : State) (vs : Vector Byte 16) : State := { s with V := vs }
def setI (s : State) (w : Word) : State := { s with I := w }
def setPc (s : State) (w : Word) : State := { s with pc := w }
def setStack (s : State) (ws : List Word) : State := { s with stack := ws }
def setDT (s : State) (v : Byte) : State := { s with DT := v }
def setST (s : State) (v : Byte) : State := { s with ST := v }
def setFb (s : State) (f : Framebuffer) : State := { s with fb := f }
def setKeys (s : State) (ks : Vector Bool 16) : State := { s with key := ks }
def setMem (s : State) (m : Memory) : State := { s with mem := m }
def setFault (s : State) (f : Option FaultRecord) : State := { s with fault := f }
def setDraws (s : State) (n : Nat) : State := { s with draws := n }
def setSchedule (s : State) (ms : List Move) : State := { s with schedule := ms }
def setStepped (s : State) (b : Bool) : State := { s with stepped := b }

/-! ## Registers -/

/-- `V[x]` (R7, R9). -/
def getV (s : State) (x : Reg) : Byte := s.V[x]

/-! ## Program counter -/

/-- The advance after fetch and before dispatch: "advance PC by 2 *before* dispatch" (40_step_cycle.md R50). -/
def advance (s : State) : State := s.setPc (s.pc + 2)

/-- A skip: a further 2 on the already advanced PC, with no look at the skipped word (R52). -/
def skipIf (s : State) (c : Bool) : State := if c then s.setPc (s.pc + 2) else s

/-- The rewind of `FX0A`: 2 off the already advanced PC (45_key_timer.md R89). -/
def rewind (s : State) : State := s.setPc (s.pc - 2)

/-! ## Call stack (10_state.md R13) -/

/-- `sp = STACK_DEPTH`; never when the depth is unbounded (R57, D3). -/
def stackFull (s : State) : Bool := s.params.stackDepth == some s.stack.length

/-- `push(v)` appends the newest entry. -/
def push (s : State) (w : Word) : State := s.setStack (s.stack ++ [w])

/-- The newest entry, or none when the stack is empty. -/
def top (s : State) : Option Word := s.stack.getLast?

/-- The stack without its newest entry. -/
def dropTop (s : State) : State := s.setStack s.stack.dropLast

/-! ## Memory (20_memory.md) -/

/-- The byte at an address (R25). -/
def readByte (s : State) (a : Nat) : Byte := s.mem.read (unlisted s.params) a

/-- `n` bytes at ascending addresses from `a` (R27). -/
def readBytes (s : State) (a n : Nat) : List Byte := (List.range n).map fun k => s.readByte (a + k)

/-- Bytes stored at ascending addresses from `a` (R27). -/
def writeBytes (s : State) (a : Nat) (vs : List Byte) : State :=
  s.setMem (s.mem.writeBytes (unlisted s.params) a vs)

end State

/-- The first of the addresses base, base + 1, .., base + n − 1 that is 4096 or more, computed on naturals with no
wrap (R25, R26, R99); none when all are in range, and when n = 0 (D17). -/
def firstOutOfRange (base n : Nat) : Option Nat :=
  if 0 < n ∧ Config.memSize ≤ base + n - 1 then some (max base Config.memSize) else none

/-! ## Faults -/

/-- TAKING A FAULT (R100, 40_step_cycle.md R53): the latch is set to `{cause, opcode, pc0}` and nothing else changes;
`s` is the state before the step, so PC stays at the address of the instruction. There is no return from a fault
(R101): only `reset` clears the latch (`State.resetBlock` of External.lean). -/
def State.takeFault (s : State) (c : Cause) (opcode : Option Word) : State := s.setFault (some ⟨c, opcode, s.pc⟩)

/-- An instruction that raises a fault: its own word is the record's opcode (R16, log 10). -/
def raise (i : Instr) (c : Cause) (s : State) : Result := .next (s.takeFault c (some (encode i)))

/-- An instruction that accesses `n` bytes at `base`: the whole range is checked before anything changes (R53); then
it completes with `k` on the advanced state. -/
def accessing (i : Instr) (base n : Nat) (k : State → State) (s : State) : Result :=
  match firstOutOfRange base n with
  | some a => raise i (.memOutOfBounds a) s
  | none => .next (k s.advance)

end Sys2Proof.Machine
end

