-- ==== Sys2Proof/Machine/Flags.lean ====
section
/-! DEFINITION. Every flag computation of the machine: the values that the ALU instructions write to VF, always 0 or 1
(10_state.md R10, 42_alu.md R63). The collision flag of `DXYN` is in Draw.lean. -/

namespace Sys2Proof.Machine

/-- A flag as the byte that VF receives. -/
def flagByte (c : Bool) : Byte := if c then 1 else 0

/-- Carry of a + b: bit 8 of the 9-bit sum, 1 iff a + b > 255 (R63, R71). -/
def carryFlag (a b : Byte) : Byte := flagByte ((a.setWidth 9 + b.setWidth 9).getLsbD 8)

/-- "no borrow" of a − b: 1 iff a ≥ b (R63, R72, R74). -/
def noBorrowFlag (a b : Byte) : Byte := flagByte (decide (b ≤ a))

/-- The bit shifted out to the right: bit 0 (R73). -/
def shiftRightOut (a : Byte) : Byte := a &&& 1

/-- The bit shifted out to the left: bit 7 (R75). -/
def shiftLeftOut (a : Byte) : Byte := a >>> 7

/-- VF written as a flag (R10). -/
def State.setFlag (s : State) (v : Byte) : State := s.setV VF v

end Sys2Proof.Machine
end

