-- ==== Sys2Proof/Machine/Operands.lean ====
section
/-! DEFINITION. The operand forms beside the plain register and the immediate byte (30_encoding.md R40). -/

namespace Sys2Proof.Machine

/-- `zext_16(nnn)`: an absolute byte address in a 16-bit register (R40). -/
def addressWord (nnn : BitVec 12) : Word := nnn.setWidth 16

/-- `zext_16(v)` of a register's byte. -/
def byteWord (v : Byte) : Word := v.setWidth 16

/-- The key that a register's value names; none when it is above 15 (R87, D12). -/
def keyNumber (v : Byte) : Option (Fin 16) := if h : v.toNat < 16 then some ⟨v.toNat, h⟩ else none

/-- The base of a data access, the full 16 bits of I as a natural number (R26). -/
def State.base (s : State) : Nat := s.I.toNat

/-- V0..Vx, the registers that `FX55` stores (R82). -/
def State.regsUpTo (s : State) (x : Reg) : List Byte := s.V.toList.take (x.val + 1)

/-- V0..Vx replaced by the bytes from `base` on; the registers above Vx stay (R83). -/
def State.loadedRegs (s : State) (x : Reg) (base : Nat) : Vector Byte 16 :=
  Vector.ofFn fun r : Reg => if r ≤ x then s.readByte (base + r.val) else s.getV r

/-- The decimal digits of a byte: hundreds, tens, ones (R81). -/
def decimalDigits (v : Byte) : List Byte := [v / 100, v / 10 % 10, v % 10]

/-- "the lowest k in 0..15 with key[k] = 1, or none when all sixteen are 0" (60_exceptions.md R105, D13). -/
def State.firstPressed (s : State) : Option (Fin 16) := (List.finRange 16).find? fun k => s.key[k]

end Sys2Proof.Machine
end

