-- ==== Sys2Proof/Machine/Alu.lean ====
section
/-! DEFINITION. Register load, arithmetic, logic, shift and random instructions (42_alu.md). -/

namespace Sys2Proof.Machine

/-- Result to Vx, then the flag to VF: the order of `8XY4`, `8XY5`, `8XY7`; with x = 0xF the flag stays (R64, D9). -/
def State.resultThenFlag (s : State) (x : Reg) (result flag : Byte) : State := (s.setV x result).setFlag flag

/-- The flag to VF, then Vx read again and replaced: the order of `8XY6`, `8XYE` (R64, D9). -/
def State.flagThenShift (s : State) (x : Reg) (flag : Byte) (shift : Byte → Byte) : State :=
  (s.setFlag flag).setV x (shift ((s.setFlag flag).getV x))

/-- `6XNN`: `V[x] <- nn` (R65). -/
def execLdImm (x : Reg) (nn : Byte) (s : State) : Result := .next (s.advance.setV x nn)

/-- `7XNN`: `V[x] <- (V[x] + nn) mod 256`, no flag (R66). -/
def execAddImm (x : Reg) (nn : Byte) (s : State) : Result := .next (s.advance.setV x (s.getV x + nn))

/-- `8XY0`: `V[x] <- V[y]` (R67). -/
def execLdReg (x y : Reg) (s : State) : Result := .next (s.advance.setV x (s.getV y))

/-- `8XY1`: `V[x] <- V[x] | V[y]`, VF not touched (R68). -/
def execOrReg (x y : Reg) (s : State) : Result := .next (s.advance.setV x (s.getV x ||| s.getV y))

/-- `8XY2`: `V[x] <- V[x] & V[y]`, VF not touched (R69). -/
def execAndReg (x y : Reg) (s : State) : Result := .next (s.advance.setV x (s.getV x &&& s.getV y))

/-- `8XY3`: `V[x] <- V[x] ^ V[y]`, VF not touched (R70). -/
def execXorReg (x y : Reg) (s : State) : Result := .next (s.advance.setV x (s.getV x ^^^ s.getV y))

/-- `8XY4`: add, VF receives the carry (R71). -/
def execAddReg (x y : Reg) (s : State) : Result :=
  .next (s.advance.resultThenFlag x (s.getV x + s.getV y) (carryFlag (s.getV x) (s.getV y)))

/-- `8XY5`: Vx − Vy, VF receives no-borrow (R72). -/
def execSubReg (x y : Reg) (s : State) : Result :=
  .next (s.advance.resultThenFlag x (s.getV x - s.getV y) (noBorrowFlag (s.getV x) (s.getV y)))

/-- `8XY6`: VF receives bit 0 of Vx, then `V[x] <- V[x] >> 1`; the y field is ignored (R73). -/
def execShr (x _y : Reg) (s : State) : Result :=
  .next (s.advance.flagThenShift x (shiftRightOut (s.getV x)) (· >>> 1))

/-- `8XY7`: Vy − Vx, VF receives no-borrow (R74). -/
def execSubnReg (x y : Reg) (s : State) : Result :=
  .next (s.advance.resultThenFlag x (s.getV y - s.getV x) (noBorrowFlag (s.getV y) (s.getV x)))

/-- `8XYE`: VF receives bit 7 of Vx, then `V[x] <- (V[x] << 1) mod 256`; the y field is ignored (R75). -/
def execShl (x _y : Reg) (s : State) : Result :=
  .next (s.advance.flagThenShift x (shiftLeftOut (s.getV x)) (· <<< 1))

/-- `CXNN` with the drawn byte given: `V[x] <- r & nn`, one draw consumed (R76). -/
def State.randomLoad (s : State) (x : Reg) (nn r : Byte) : State := (s.setV x (r &&& nn)).setDraws (s.draws + 1)

/-- `CXNN`: the draw is the next sample of the free input `rnd` (R76, R21; log 5). -/
def execRnd (x : Reg) (nn : Byte) (s : State) : Result := .next (s.advance.randomLoad x nn (Config.rnd s.draws))

end Sys2Proof.Machine
end

