-- ==== Sys2Proof/Machine/Draw.lean ====
section
/-! DEFINITION. The framebuffer engine (44_draw.md): `clear()` and `draw(x, y, sprite_bytes) -> collided`. -/

namespace Sys2Proof.Machine

/-- All 2048 pixels unset (R84). -/
def Framebuffer.clear : Framebuffer := Vector.replicate 32 (Vector.replicate 64 false)

/-- The pixel in column x of row y (R19). -/
def Framebuffer.pixel (fb : Framebuffer) (y : Fin 32) (x : Fin 64) : Bool := fb[y][x]

/-- One pixel toggled. -/
def Framebuffer.toggle (fb : Framebuffer) (y : Fin 32) (x : Fin 64) : Framebuffer :=
  fb.set y (fb[y].set x (!fb[y][x]))

/-- A draw in progress: the pixels, and whether a set pixel was turned off so far. -/
abbrev Canvas := Framebuffer × Bool

/-- A 1-bit of the sprite on a pixel: "if fb = 1: VF <- 1; fb <- fb ^ 1" (R85). -/
def Canvas.plot (c : Canvas) (y : Fin 32) (x : Fin 64) : Canvas := (c.1.toggle y x, c.2 || c.1.pixel y x)

/-- One sprite row: bit 7 is column 0; columns wrap modulo 64 (R85). -/
def Canvas.drawRow (c : Canvas) (vx : Nat) (y : Fin 32) (row : Byte) : Canvas :=
  (List.range 8).foldl (fun c k => if row.getLsbD (7 - k) then c.plot y (Fin.ofNat 64 (vx + k)) else c) c

/-- The rows of a sprite, top to bottom; rows wrap modulo 32 (R85). -/
def Canvas.drawRows (vx : Nat) : Nat → List Byte → Canvas → Canvas
  | _, [], c => c
  | vy, row :: rows, c => Canvas.drawRows vx (vy + 1) rows (c.drawRow vx (Fin.ofNat 32 vy) row)

/-- `draw(x, y, sprite_bytes) -> collided`: coordinates by value, the flag starts at 0 (R85, D10). -/
def Framebuffer.draw (fb : Framebuffer) (vx vy : Byte) (rows : List Byte) : Canvas :=
  Canvas.drawRows vx.toNat vy.toNat rows (fb, false)

/-- `00E0`: clear the framebuffer (R84). -/
def execCls (s : State) : Result := .next (s.advance.setFb Framebuffer.clear)

/-- The effect of `DXYN` once its rows are in range: the pixels toggled, VF the collision flag (R85). -/
def State.drawSprite (s : State) (vx vy : Byte) (rows : List Byte) : State :=
  (s.setFb (s.fb.draw vx vy rows).1).setFlag (flagByte (s.fb.draw vx vy rows).2)

/-- `DXYN`: Vx, Vy and I are sampled before VF is written; the n rows are read from I (R85). -/
def execDrw (x y : Reg) (n : BitVec 4) (s : State) : Result :=
  accessing (.drw x y n) s.base n.toNat (·.drawSprite (s.getV x) (s.getV y) (s.readBytes s.base n.toNat)) s

end Sys2Proof.Machine
end

