-- ==== Sys2Proof/Machine/Flow.lean ====
section
/-! DEFINITION. Control transfer (41_flow.md). Each meaning starts from the state before the step, so `s.pc` is `pc0`
and `s.advance.pc` the `pc` of the rule. -/

namespace Sys2Proof.Machine

/-- `00EE`: PC from the newest stack entry, or StackUnderflow (R55). -/
def execRet (s : State) : Result :=
  match s.top with
  | none => raise .ret .stackUnderflow s
  | some target => .next (s.advance.dropTop.setPc target)

/-- `1NNN`: `pc <- zext_16(nnn)` (R56). -/
def execJp (nnn : BitVec 12) (s : State) : Result := .next (s.advance.setPc (addressWord nnn))

/-- `2NNN`: push the advanced PC, then jump; StackOverflow when the stack is full (R57). -/
def execCall (nnn : BitVec 12) (s : State) : Result :=
  if s.stackFull then raise (.call nnn) .stackOverflow s
  else .next ((s.advance.push s.advance.pc).setPc (addressWord nnn))

/-- `3XNN`: skip if Vx = nn (R58). -/
def execSeImm (x : Reg) (nn : Byte) (s : State) : Result := .next (s.advance.skipIf (s.getV x == nn))

/-- `4XNN`: skip if Vx ≠ nn (R59). -/
def execSneImm (x : Reg) (nn : Byte) (s : State) : Result := .next (s.advance.skipIf (s.getV x != nn))

/-- `5XY0`: skip if Vx = Vy (R60). -/
def execSeReg (x y : Reg) (s : State) : Result := .next (s.advance.skipIf (s.getV x == s.getV y))

/-- `9XY0`: skip if Vx ≠ Vy (R61). -/
def execSneReg (x y : Reg) (s : State) : Result := .next (s.advance.skipIf (s.getV x != s.getV y))

/-- `BNNN`: `pc <- nnn + V0`, no wrap, no mask (R62). -/
def execJpV0 (nnn : BitVec 12) (s : State) : Result :=
  .next (s.advance.setPc (addressWord nnn + byteWord (s.getV 0)))

end Sys2Proof.Machine
end

