-- ==== Sys2Proof/Machine/IndexMem.lean ====
section
/-! DEFINITION. Index register and memory transfers (43_index_mem.md). `FX33`, `FX55`, `FX65` leave I as it was (R77). -/

namespace Sys2Proof.Machine

/-- `ANNN`: `I <- zext_16(nnn)` (R78). -/
def execLdI (nnn : BitVec 12) (s : State) : Result := .next (s.advance.setI (addressWord nnn))

/-- `FX1E`: `I <- (I + zext_16(V[x])) mod 65536`, no flag (R79). -/
def execAddI (x : Reg) (s : State) : Result := .next (s.advance.setI (s.I + byteWord (s.getV x)))

/-- `FX29`: `I <- zext_16(V[x]) * 5`, no mask of Vx (R80). -/
def execLdF (x : Reg) (s : State) : Result := .next (s.advance.setI (byteWord (s.getV x) * 5))

/-- `FX33`: the three decimal digits of Vx to I, I+1, I+2 (R81). -/
def execLdB (x : Reg) (s : State) : Result :=
  accessing (.ldB x) s.base 3 (·.writeBytes s.base (decimalDigits (s.getV x))) s

/-- `FX55`: V0..Vx to the bytes from I on (R82). -/
def execStoreRegs (x : Reg) (s : State) : Result :=
  accessing (.storeRegs x) s.base (x.val + 1) (·.writeBytes s.base (s.regsUpTo x)) s

/-- `FX65`: V0..Vx from the bytes from I on (R83). -/
def execLoadRegs (x : Reg) (s : State) : Result :=
  accessing (.loadRegs x) s.base (x.val + 1) (·.setRegs (s.loadedRegs x s.base)) s

end Sys2Proof.Machine
end

