-- ==== Sys2Proof/Machine/KeyTimer.lean ====
section
/-! DEFINITION. Keypad and timer instructions (45_key_timer.md). -/

namespace Sys2Proof.Machine

/-- `EX9E`: skip if the key named by Vx is pressed; BadKeyIndex when Vx > 15 (R87). -/
def execSkp (x : Reg) (s : State) : Result :=
  match keyNumber (s.getV x) with
  | none => raise (.skp x) (.badKeyIndex (s.getV x)) s
  | some k => .next (s.advance.skipIf s.key[k])

/-- `EXA1`: skip if the key named by Vx is not pressed; BadKeyIndex when Vx > 15 (R88). -/
def execSknp (x : Reg) (s : State) : Result :=
  match keyNumber (s.getV x) with
  | none => raise (.sknp x) (.badKeyIndex (s.getV x)) s
  | some k => .next (s.advance.skipIf (!s.key[k]))

/-- `FX0A`: Vx receives the first pressed key; with none pressed PC is rewound to this instruction (R89). -/
def execLdVxK (x : Reg) (s : State) : Result :=
  match s.firstPressed with
  | none => .next s.advance.rewind
  | some k => .next (s.advance.setV x (BitVec.ofNat 8 k.val))

/-- `FX07`: `V[x] <- DT` (R90; D11, log 13). -/
def execLdVxDT (x : Reg) (s : State) : Result := .next (s.advance.setV x s.DT)

/-- `FX15`: `DT <- V[x]` (R91; D11, log 13). -/
def execLdDTVx (x : Reg) (s : State) : Result := .next (s.advance.setDT (s.getV x))

/-- `FX18`: `ST <- V[x]` (R92; D11, log 13). -/
def execLdSTVx (x : Reg) (s : State) : Result := .next (s.advance.setST (s.getV x))

end Sys2Proof.Machine
end

