-- ==== Sys2Proof/Machine/Cycle.lean ====
section
/-! DEFINITION. The `step` operation of the spec (40_step_cycle.md R47): fetch, decode, dispatch. The advance of R50 is
each meaning's first act, so that a fault, taken on the state before the step, leaves PC at `pc0` (R53). -/

namespace Sys2Proof.Machine

/-- The two bytes at PC joined high byte first (R27): the word that a fetch in range reads (R25, R48). -/
def State.wordAtPc (s : State) : Word := s.readByte s.pc.toNat ++ s.readByte (s.pc.toNat + 1)

/-- `step` when no fault is latched: a fetch fault has no opcode (R48); a word that is no instruction raises
UnknownInstruction (R51, R94); otherwise the instruction runs. -/
def runInstruction (s : State) : Result :=
  match firstOutOfRange s.pc.toNat 2 with
  | some a => .next (s.takeFault (.memOutOfBounds a) none)
  | none =>
    match decodeWord s.wordAtPc with
    | .error _ => .next (s.takeFault .unknownInstruction (some s.wordAtPc))
    | .ok i => exec i s

/-- `step`: while a fault is latched it has no effect (R47, R100). -/
def instructionStep (s : State) : Result :=
  match s.fault with
  | some _ => .next s
  | none => runInstruction s

end Sys2Proof.Machine
end

