-- ==== Sys2Proof/Machine/External.lean ====
section
/-! DEFINITION. The operations of the driver beside `step` (00_scope.md R8; 60_exceptions.md R103, R104;
20_memory.md R33; 70_reset_and_hazards.md R113), the ports (60_exceptions.md R106, R107, R100), and the move that the
driver makes next (R108). -/

namespace Sys2Proof.Machine

/-- A timer's tick: down by 1, floored at 0 (R103). -/
def tickDown (v : Byte) : Byte := if v = 0 then 0 else v - 1

/-- `tick`: both timers, independently, and nothing else (R103). It works while halted too (R101). -/
def State.tick (s : State) : State := (s.setDT (tickDown s.DT)).setST (tickDown s.ST)

/-- `key_set(k, pressed)`: one key and nothing else (R104). It works while halted too (R101). -/
def State.keySet (s : State) (k : Fin 16) (pressed : Bool) : State := s.setKeys (s.key.set k pressed)

/-- `reset`: every piece of the block's state to its reset value (R113), the only way out of a fault (R101). The
model's own fields, which are not the block's, go on: the parameters, the input's position, the driver's moves. -/
def State.resetBlock (s : State) : State :=
  ((State.resetWith s.params).setDraws s.draws).setSchedule s.schedule

/-- `load(bytes)`: `Memory[0x200 + k] <- bytes[k]`, nothing else; refused for a longer stream than fits (R33), and once
the driver has called `step` (D20, U18). -/
def load (image : List Byte) (s : State) : Result :=
  if s.stepped then .refused .loadAfterStep
  else if imageFits image then .next (s.writeBytes Config.programBase image)
  else .refused .imageTooLong

/-- The port `fb` (R107). -/
def State.fbPort (s : State) (y : Fin 32) (x : Fin 64) : Bool := s.fb.pixel y x

/-- The port `st_value` (R106). -/
def State.stValue (s : State) : Byte := s.ST

/-- The port `tone`: 1 exactly when ST is nonzero (R106). -/
def State.tone (s : State) : Bool := s.ST != 0

/-- The port `fault` (R100). -/
def State.faultPort (s : State) : Option FaultRecord := s.fault

/-- The code of a cause (R93). -/
def Cause.code : Cause → Nat
  | .unknownInstruction => 1
  | .stackUnderflow => 2
  | .memOutOfBounds _ => 3
  | .badKeyIndex _ => 4
  | .stackOverflow => 5

/-- The move the driver makes next: the head of the schedule, and `step` when there is none (R108, log 6). -/
def State.nextMove (s : State) : Move := s.schedule.head?.getD .step

/-- The state with that move taken off the schedule; a `step` is noted, since `load` is specified before it only. -/
def State.popMove (s : State) : State :=
  (s.setSchedule s.schedule.tail).setStepped (s.stepped || s.nextMove == .step)

/-- One operation of the driver, atomic (R108). -/
def perform (m : Move) (s : State) : Result :=
  match m with
  | .step => instructionStep s
  | .tick => .next s.tick
  | .keySet k pressed => .next (s.keySet k pressed)
  | .reset => .next s.resetBlock
  | .load image => load image s

/-- The state in which the next move is `step` and the fetch finds `word`: no fault latched, no other move before it,
PC moved to 0x200 only where nothing can be fetched at it (log 8). -/
def State.placeWord (s : State) (word : Word) : State :=
  let at0 := if s.pc.toNat + 1 < Config.memSize then s.pc else 0x200
  (((s.setFault none).setSchedule []).setPc at0).writeBytes at0.toNat [highByte word, lowByte word]

end Sys2Proof.Machine
end

