-- ==== Sys2Proof/Machine/Step.lean ====
section
/-! DEFINITION. One step of the model: the driver's next move (60_exceptions.md R108), which is the spec's `step`
unless the schedule says otherwise (log 6). -/

namespace Sys2Proof.Machine

/-- The driver's next move, performed. -/
def step (s : State) : Host.Outcome State Fault Refusal := perform s.nextMove s.popMove

/-- `s` with the instruction whose bits are `w` (numbered as the opcode table numbers them) where the next step
fetches, and that step being an instruction step (log 8). -/
def State.withFetchWord (s : State) (nbits w : Nat) : State := s.placeWord (BitVec.ofNat 16 (w % 2 ^ nbits))

end Sys2Proof.Machine
end

