-- ==== Sys2Proof/Safety.lean ====
section
/-! DEFINITION. The terms claims use: the parts of the state and what it is for all but some of them to stay; what each
instruction may write (10_state.md R22); the invariant of the machine; the pixels a sprite covers (44_draw.md R85); a
safe run, which never latches a fault (60_exceptions.md R100), and its end (70_reset_and_hazards.md R120). -/

namespace Sys2Proof.Machine

/-! ## Parts of the state and frames -/

/-- One part of the state: a register, a byte of memory, or a whole other field. -/
inductive Part where
  | reg (r : Reg)
  | index
  | pc
  | stack
  | delay
  | sound
  | pixels
  | keys
  | byte (a : Nat)
  | latch
  | params
  | draws
  | schedule
  | stepped
  deriving DecidableEq, Repr

/-- A part reads in `t` as it reads in `s`. -/
def Part.same (p : Part) (s t : State) : Prop :=
  match p with
  | .reg r => t.getV r = s.getV r
  | .index => t.I = s.I
  | .pc => t.pc = s.pc
  | .stack => t.stack = s.stack
  | .delay => t.DT = s.DT
  | .sound => t.ST = s.ST
  | .pixels => t.fb = s.fb
  | .keys => t.key = s.key
  | .byte a => t.readByte a = s.readByte a
  | .latch => t.fault = s.fault
  | .params => t.params = s.params
  | .draws => t.draws = s.draws
  | .schedule => t.schedule = s.schedule
  | .stepped => t.stepped = s.stepped

/-- Everything but the listed parts reads in `t` as in `s`: "Unless the pseudocode writes it, a piece of state is
unchanged" (40_step_cycle.md, template). -/
def Unchanged (s t : State) (but : List Part) : Prop := ∀ p, p ∉ but → p.same s t

/-- The `n` bytes at `a`. -/
def bytesAt (a n : Nat) : List Part := (List.range n).map fun k => .byte (a + k)

/-- V0..Vx. -/
def regsTo (x : Reg) : List Part := ((List.finRange 16).filter fun r => decide (r ≤ x)).map .reg

/-- What an instruction may write when it completes, from the state before it: the `w` entries of its row in the
access matrix (R22), with PC in every row and `draws` for the sample of `rnd`. -/
def writes (i : Instr) (s : State) : List Part :=
  match i with
  | .cls => [.pc, .pixels]
  | .ret | .call _ => [.pc, .stack]
  | .jp _ | .jpV0 _ | .seImm _ _ | .sneImm _ _ | .seReg _ _ | .sneReg _ _ | .skp _ | .sknp _ => [.pc]
  | .ldImm x _ | .addImm x _ | .ldReg x _ | .orReg x _ | .andReg x _ | .xorReg x _ | .ldVxDT x | .ldVxK x =>
    [.pc, .reg x]
  | .addReg x _ | .subReg x _ | .shr x _ | .subnReg x _ | .shl x _ => [.pc, .reg x, .reg VF]
  | .ldI _ | .addI _ | .ldF _ => [.pc, .index]
  | .rnd x _ => [.pc, .reg x, .draws]
  | .drw _ _ _ => [.pc, .reg VF, .pixels]
  | .ldDTVx _ => [.pc, .delay]
  | .ldSTVx _ => [.pc, .sound]
  | .ldB _ => .pc :: bytesAt s.base 3
  | .storeRegs x => .pc :: bytesAt s.base (x.val + 1)
  | .loadRegs x => .pc :: regsTo x

/-- The six instructions that write VF as a flag (R10). -/
def writesFlag : Instr → Bool
  | .addReg _ _ | .subReg _ _ | .shr _ _ | .subnReg _ _ | .shl _ _ | .drw _ _ _ => true
  | .cls | .ret | .jp _ | .call _ | .seImm _ _ | .sneImm _ _ | .seReg _ _ | .ldImm _ _ | .addImm _ _
  | .ldReg _ _ | .orReg _ _ | .andReg _ _ | .xorReg _ _ | .sneReg _ _ | .ldI _ | .jpV0 _ | .rnd _ _ | .skp _
  | .sknp _ | .ldVxDT _ | .ldVxK _ | .ldDTVx _ | .ldSTVx _ | .addI _ | .ldF _ | .ldB _ | .storeRegs _
  | .loadRegs _ => false

/-- An instruction that names VF as its destination register x, or loads it from memory (R10). -/
def destinationIsVF : Instr → Bool
  | .ldImm x _ | .addImm x _ | .ldReg x _ | .orReg x _ | .andReg x _ | .xorReg x _ | .addReg x _ | .subReg x _
  | .shr x _ | .subnReg x _ | .shl x _ | .rnd x _ | .ldVxDT x | .ldVxK x | .loadRegs x => x == VF
  | .cls | .ret | .jp _ | .call _ | .seImm _ _ | .sneImm _ _ | .seReg _ _ | .sneReg _ _ | .ldI _ | .jpV0 _
  | .drw _ _ _ | .skp _ | .sknp _ | .ldDTVx _ | .ldSTVx _ | .addI _ | .ldF _ | .ldB _ | .storeRegs _ => false

/-- The instructions that write PC beyond the advance (R11, R22). -/
def writesPc : Instr → Bool
  | .ret | .jp _ | .call _ | .seImm _ _ | .sneImm _ _ | .seReg _ _ | .sneReg _ _ | .jpV0 _ | .skp _ | .sknp _
  | .ldVxK _ => true
  | .cls | .ldImm _ _ | .addImm _ _ | .ldReg _ _ | .orReg _ _ | .andReg _ _ | .xorReg _ _ | .addReg _ _
  | .subReg _ _ | .shr _ _ | .subnReg _ _ | .shl _ _ | .ldI _ | .rnd _ _ | .drw _ _ _ | .ldVxDT _ | .ldDTVx _
  | .ldSTVx _ | .addI _ | .ldF _ | .ldB _ | .storeRegs _ | .loadRegs _ => false

/-- The instructions that read the keypad (R20, R22). -/
def readsKeys : Instr → Bool
  | .skp _ | .sknp _ | .ldVxK _ => true
  | .cls | .ret | .jp _ | .call _ | .seImm _ _ | .sneImm _ _ | .seReg _ _ | .ldImm _ _ | .addImm _ _ | .ldReg _ _
  | .orReg _ _ | .andReg _ _ | .xorReg _ _ | .addReg _ _ | .subReg _ _ | .shr _ _ | .subnReg _ _ | .shl _ _
  | .sneReg _ _ | .ldI _ | .jpV0 _ | .rnd _ _ | .drw _ _ _ | .ldVxDT _ | .ldDTVx _ | .ldSTVx _ | .addI _
  | .ldF _ | .ldB _ | .storeRegs _ | .loadRegs _ => false

/-- A result with its next state changed. -/
def mapNext (f : State → State) : Result → Result
  | .next t => .next (f t)
  | .fault r => .fault r
  | .refused r => .refused r

/-! ## Fetch -/

/-- Both bytes at PC exist: PC ≤ 0xFFE (R48). -/
def State.fetchable (s : State) : Prop := s.pc.toNat + 1 < Config.memSize

/-! ## The invariant -/

/-- No more entries than STACK_DEPTH (R13). -/
def State.stackWithin (s : State) : Prop := ∀ d, s.params.stackDepth = some d → s.stack.length ≤ d

/-- What every state of a run meets: memory canonical; the stack within its depth, its entries advanced PC values, at
most 0x1000 (R11, R55); PC at most 0x10FE (R11; its width is D2, log 20); a latched record naming the PC that the
machine stopped at (R53; D6, log 10), latched by a `step`; the parameters legal (R5, D3; logs 1, 2). -/
structure State.Inv (s : State) : Prop where
  memory  : s.mem.wf s.params = true
  depth   : s.stackWithin
  entries : ∀ w ∈ s.stack, w.toNat ≤ 0x1000
  pcRange : s.pc.toNat ≤ 0x10FE
  record  : ∀ r, s.fault = some r → r.pc0 = s.pc
  latched : s.fault ≠ none → s.stepped = true
  legal   : s.params.wellFormed = true

/-! ## Sprites -/

/-- Some 1-bit of the sprite lands on the pixel in row y, column x: row r of the sprite at screen row (vy + r) mod 32,
bit 7 − c at column (vx + c) mod 64 (R85). -/
def spriteCovers (vx vy : Byte) (rows : List Byte) (y : Fin 32) (x : Fin 64) : Prop :=
  ∃ r, ∃ h : r < rows.length, ∃ c, c < 8 ∧ rows[r].getLsbD (7 - c) = true ∧
    (vx.toNat + c) % 64 = x.val ∧ (vy.toNat + r) % 32 = y.val

/-! ## Runs -/

/-- No fault is latched (R100: a latched fault is "a bad terminal outcome"). -/
def State.running (s : State) : Bool := s.fault.isNone

/-- The result of the driver's next `k` moves; the first that is not a next state ends it. -/
def runMoves : Nat → State → Result
  | 0, s => .next s
  | k + 1, s =>
    match step s with
    | .next t => runMoves k t
    | .fault r => .fault r
    | .refused r => .refused r

/-- The next `k` moves of the driver leave the machine running, and none is refused. -/
def safeFor : Nat → State → Bool
  | 0, s => s.running
  | k + 1, s =>
    s.running && match step s with
      | .next t => safeFor k t
      | .fault _ => false
      | .refused _ => false

/-- The end-of-run convention: PC holds the address A of a word `1NNN` with NNN = A (R120). -/
def State.atSelfJump (s : State) : Prop :=
  s.fetchable ∧ ∃ nnn : BitVec 12, s.pc = addressWord nnn ∧ decodeWord s.wordAtPc = .ok (.jp nnn)

end Sys2Proof.Machine
end

