-- ==== Sys2Proof/Certificates/Slice0/Obligations.lean ====
section
/-! DEFINITION. The statements for the provers. Each names the rule of spec/ it comes from. Where it rests on a decision
that the spec marks as its own (92_eei_decisions.md D<n>) or on a choice of the model (notes/assumptions), it says so. -/

open Sys2Proof Sys2Proof.Machine

/-! ## Encoding -/

/-- Words of several families, written out from the fields of R38 and the map of R42 (95_test_vectors.md T1), decode to
their instructions; illegal ones are rejected by name (strict digits: D8). -/
def Obligations.SampleWordsDecode : Prop :=
  decodeBytes [0x8A, 0xB4] = (.ok (.addReg 10 11), []) ∧ decodeBytes [0xD0, 0x15] = (.ok (.drw 0 1 5), []) ∧
  decodeBytes [0x12, 0x34] = (.ok (.jp 0x234), []) ∧ decodeBytes [0x00, 0xE0] = (.ok .cls, []) ∧
  decodeBytes [0x00, 0xEE] = (.ok .ret, []) ∧ decodeBytes [0xF2, 0x65] = (.ok (.loadRegs 2), []) ∧
  decodeBytes [0xE1, 0x9E] = (.ok (.skp 1), []) ∧ decodeBytes [0x8F, 0x7E] = (.ok (.shl 15 7), []) ∧
  decodeBytes [0xFF, 0xFF] = (.error (.unknownInstruction 0xFFFF), []) ∧
  decodeBytes [0x01, 0xE0] = (.error (.unknownInstruction 0x01E0), []) ∧
  decodeBytes [0x50, 0x11] = (.error (.unknownInstruction 0x5011), [])

/-- Decode of encode is the instruction, for every instruction and every operand (R38, R39, R42; that `shr` and `shl`
keep the y they ignore is log 26). -/
def Obligations.DecodeOfEncodeIsTheInstruction : Prop := ∀ i : Instr, decodeWord (encode i) = .ok i

/-- Encode of decode is the word, for every word that is an instruction: no bit of it is lost (R38, R42). That the y
that `8XY6` and `8XYE` ignore is not lost is the model's choice to keep it (log 26); that a word of family 0, 5 or 9
decodes only with the strict digits is D8 (log 19). -/
def Obligations.EncodeOfDecodeIsTheWord : Prop := ∀ (w : Word) (i : Instr), decodeWord w = .ok i → encode i = w

/-- The choice by family and selector (R41) and the choice by mask and match (R42) are the same (R51 says
"equivalently"): a word that decodes is admitted by the row of its instruction; a word decodes exactly when some row
admits it. The rows' strict digits are D8. -/
def Obligations.SelectionAgreesWithMaskAndMatch : Prop :=
  ∀ w : Word, (∀ i, decodeWord w = .ok i → ∃ r ∈ opcodeTable, r.number = i.rowNumber ∧ r.admits w = true) ∧
    (canonicalWord w = true → ∃ i, decodeWord w = .ok i) ∧
    (canonicalWord w = false → decodeWord w = .error (.unknownInstruction w))

/-- "The rows are disjoint, so order does not matter" (R42; strict digits: D8): no word is admitted by two rows. -/
def Obligations.OpcodeRowsAreDisjoint : Prop :=
  opcodeTable.Pairwise fun a b => ∀ w : Word, ¬ (a.admits w = true ∧ b.admits w = true)

/-- The illegal words are exactly those of R43's table, family by family (strict digits: D8). -/
def Obligations.IllegalWordsAreTheListedOnes : Prop :=
  ∀ b1 b2 : Byte, decodeWord (b1 ++ b2) = .error (.unknownInstruction (b1 ++ b2)) ↔
    let f := decodeFields b1 b2
    (f.op = 0 ∧ f.nnn ≠ 0x0E0 ∧ f.nnn ≠ 0x0EE) ∨ (f.op = 5 ∧ f.n ≠ 0) ∨
    (f.op = 8 ∧ (f.n = 8 ∨ f.n = 9 ∨ f.n = 10 ∨ f.n = 11 ∨ f.n = 12 ∨ f.n = 13 ∨ f.n = 15)) ∨
    (f.op = 9 ∧ f.n ≠ 0) ∨ (f.op = 14 ∧ f.nn ≠ 0x9E ∧ f.nn ≠ 0xA1) ∨
    (f.op = 15 ∧ f.nn ≠ 0x07 ∧ f.nn ≠ 0x0A ∧ f.nn ≠ 0x15 ∧ f.nn ≠ 0x18 ∧ f.nn ≠ 0x1E ∧ f.nn ≠ 0x29 ∧
      f.nn ≠ 0x33 ∧ f.nn ≠ 0x55 ∧ f.nn ≠ 0x65)

/-! ## The step -/

/-- A STEP RUNS THE DECODED INSTRUCTION (R47, R48, R51): no fault latched, PC ≤ 0xFFE, the two bytes at PC, high byte
first, decode to `i`: the step is `exec i`, with the move taken off the driver's schedule (log 6). -/
def Obligations.StepRunsTheDecodedInstruction : Prop :=
  ∀ (s : State) (i : Instr), s.nextMove = .step → s.fault = none → s.pc.toNat + 1 < 4096 →
    decodeWord (s.readByte s.pc.toNat ++ s.readByte (s.pc.toNat + 1)) = .ok i → step s = exec i s.popMove

/-- An illegal word at PC latches UnknownInstruction with the raw word and the address it was fetched from (R94; which PC
is D6), and changes nothing else. -/
def Obligations.IllegalWordLatchesUnknownInstruction : Prop :=
  ∀ (s : State) (w : Word), s.nextMove = .step → s.fault = none → s.pc.toNat + 1 < 4096 →
    w = s.readByte s.pc.toNat ++ s.readByte (s.pc.toNat + 1) → canonicalWord w = false →
    ∃ t, step s = .next t ∧ t.fault = some ⟨.unknownInstruction, some w, s.pc⟩ ∧
      Unchanged s t [.latch, .schedule, .stepped]

/-- A fetch at PC ≥ 0xFFF latches MemOutOfBounds with no opcode; the address is the first one out of range: 0x1000 for
PC = 0xFFF, else PC itself (R48; the latch is D6, the order of checks D30). -/
def Obligations.FetchOutOfRangeLatchesMemOutOfBounds : Prop :=
  ∀ s : State, s.nextMove = .step → s.fault = none → 0xFFF ≤ s.pc.toNat →
    ∃ t, step s = .next t ∧ Unchanged s t [.latch, .schedule, .stepped] ∧
      t.fault = some ⟨.memOutOfBounds (if s.pc.toNat = 0xFFF then 0x1000 else s.pc.toNat), none, s.pc⟩

/-- While a fault is latched `step` has no effect (R47, R100; D7) but on the model's own account of the driver's moves
(logs 6, 7). -/
def Obligations.HaltedStepHasNoEffect : Prop :=
  ∀ s : State, s.nextMove = .step → s.fault ≠ none → ∃ t, step s = .next t ∧ Unchanged s t [.schedule, .stepped]

/-- A FAULTING STEP IS ALL OR NOTHING (R53, R100; D6): if a step latches a fault, the state is the one before it but for
the latch (and the driver's move taken); the record holds the PC it was fetched from and the word at PC, absent when
the fetch itself faulted (R16). -/
def Obligations.FaultingStepChangesOnlyTheLatch : Prop :=
  ∀ (s t : State) (r : FaultRecord), s.nextMove = .step → s.fault = none → step s = .next t → t.fault = some r →
    t = s.popMove.setFault (some r) ∧ r.pc0 = s.pc ∧
    r.opcode = if s.pc.toNat + 1 < 4096 then some (s.readByte s.pc.toNat ++ s.readByte (s.pc.toNat + 1)) else none

/-- Every move of the driver answers a next state: a step "always either completes one instruction or faults" (R54), and
a fault is a next state (D6, log 9). The one exception is a `load` outside its contract, refused by name: after a `step`,
or of an image that does not fit (R33; D20, log 7). -/
def Obligations.EveryMoveAnswersANextState : Prop :=
  ∀ s : State, (∃ t, step s = .next t) ∨
    (∃ image, s.nextMove = .load image ∧ s.stepped = true ∧ step s = .refused .loadAfterStep) ∨
    (∃ image, s.nextMove = .load image ∧ s.stepped = false ∧ 3584 < image.length ∧ step s = .refused .imageTooLong)

/-- THE INVARIANT (R5, R11, R13, R18, R53): from every state that meets it, every move that answers a next state gives a
state that meets it, under every schedule, every parameter and every draw. The spec's decisions in it: the record names
PC (D6, log 10), the stack has a depth (D3, logs 1 and 2), PC is 16 bits (D2, log 20); that a latched fault comes after a
`step` is about the model's own `stepped` (log 7). -/
def Obligations.StepKeepsTheInvariant : Prop := ∀ s t : State, s.Inv → step s = .next t → t.Inv

/-- The state after reset meets the invariant, for all legal parameters (R113; the spec's defaults, logs 2 and 3, among
them). Of the reset values it rests on, the empty stack is D4 (log 4) and the empty latch D6 (log 10). -/
def Obligations.ResetMeetsTheInvariant : Prop :=
  State.reset.Inv ∧ ∀ p : Params, p.wellFormed = true → (State.resetWith p).Inv

/-- A latched fault stays, with the first record kept, until `reset` (R101; D7). -/
def Obligations.LatchedFaultStaysUntilReset : Prop :=
  ∀ (s t : State) (r : FaultRecord), s.fault = some r → step s = .next t →
    t.fault = some r ∨ s.nextMove = .reset

/-- A store into the instruction stream is seen by the very next fetch (R36; D22): `FX55` with I = the next instruction's
address and x ≥ 1; the fetch then finds V0 ++ V1 (R27: the word is `a ++ b`). -/
def Obligations.StoreIsSeenByTheNextFetch : Prop :=
  ∀ (s : State) (x : Reg), s.mem.wf s.params = true → s.I.toNat = s.pc.toNat + 2 → 1 ≤ x.val →
    s.I.toNat + x.val < 4096 →
    ∃ t, exec (.storeRegs x) s = .next t ∧ t.pc.toNat + 1 < 4096 ∧ t.wordAtPc = s.getV 0 ++ s.getV 1

/-! ## Control transfer -/

/-- `1NNN` (R56): the word 0x1NNN; PC is NNN, nothing else changes; a self-jump changes nothing at all. -/
def Obligations.JumpGoesToItsAddress : Prop :=
  ∀ (nnn : BitVec 12) (s : State), decodeWord (formatA 0x1 nnn) = .ok (.jp nnn) ∧
    (∃ t, exec (.jp nnn) s = .next t ∧ t.pc.toNat = nnn.toNat ∧ Unchanged s t [.pc]) ∧
    (s.pc.toNat = nnn.toNat → exec (.jp nnn) s = .next s)

/-- `2NNN` with room on the stack (R57; the capacity is D3): pushes `pc0 + 2`, then PC is NNN. -/
def Obligations.CallPushesTheReturnAddress : Prop :=
  ∀ (nnn : BitVec 12) (s : State), s.params.stackDepth ≠ some s.stack.length →
    ∃ t, exec (.call nnn) s = .next t ∧ t.stack = s.stack ++ [s.pc + 2] ∧ t.pc.toNat = nnn.toNat ∧
      Unchanged s t [.pc, .stack]

/-- `00EE` (R55): PC is the newest entry, which leaves the stack. -/
def Obligations.ReturnGoesToTheNewestEntry : Prop :=
  ∀ (older : List Word) (newest : Word) (s : State), s.stack = older ++ [newest] →
    ∃ t, exec .ret s = .next t ∧ t.pc = newest ∧ t.stack = older ∧ Unchanged s t [.pc, .stack]

/-- `2NNN` on a full stack (R57, R98; D3) latches StackOverflow, `00EE` on an empty one (R55, R95) StackUnderflow, and
nothing else changes (D6). -/
def Obligations.StackFaultsLatchAndChangeNothingElse : Prop :=
  ∀ (nnn : BitVec 12) (s : State),
    (s.params.stackDepth = some s.stack.length → ∃ t, exec (.call nnn) s = .next t ∧
      t.fault = some ⟨.stackOverflow, some (formatA 0x2 nnn), s.pc⟩ ∧ Unchanged s t [.latch]) ∧
    (s.stack = [] → ∃ t, exec .ret s = .next t ∧
      t.fault = some ⟨.stackUnderflow, some 0x00EE, s.pc⟩ ∧ Unchanged s t [.latch])

/-- A matching `00EE` "resumes at the instruction after the call" (R57): from any state whose stack is the one the call
left (the call has room: the capacity is D3). -/
def Obligations.ReturnResumesAfterTheCall : Prop :=
  ∀ (nnn : BitVec 12) (s t u : State), s.params.stackDepth ≠ some s.stack.length → exec (.call nnn) s = .next t →
    u.stack = t.stack → ∃ v, exec .ret u = .next v ∧ v.pc = s.pc + 2 ∧ v.stack = s.stack ∧
      Unchanged u v [.pc, .stack]

/-- `3XNN` and `4XNN` (R58, R59): skip iff Vx = NN, skip iff Vx ≠ NN; a taken skip leaves `pc0 + 4`, one not taken
`pc0 + 2`; nothing else changes, and for the same x, nn and state exactly one of the two skips. -/
def Obligations.ImmediateSkips : Prop :=
  ∀ (x : Reg) (nn : Byte) (s : State),
    decodeWord (formatI 0x3 x nn) = .ok (.seImm x nn) ∧ decodeWord (formatI 0x4 x nn) = .ok (.sneImm x nn) ∧
    (∃ t, exec (.seImm x nn) s = .next t ∧ t.pc = (if s.getV x = nn then s.pc + 4 else s.pc + 2) ∧
      Unchanged s t [.pc]) ∧
    (∃ t, exec (.sneImm x nn) s = .next t ∧ t.pc = (if s.getV x = nn then s.pc + 2 else s.pc + 4) ∧
      Unchanged s t [.pc])

/-- `5XY0` and `9XY0` (R60, R61). -/
def Obligations.RegisterSkips : Prop :=
  ∀ (x y : Reg) (s : State),
    (∃ t, exec (.seReg x y) s = .next t ∧ t.pc = (if s.getV x = s.getV y then s.pc + 4 else s.pc + 2) ∧
      Unchanged s t [.pc]) ∧
    (∃ t, exec (.sneReg x y) s = .next t ∧ t.pc = (if s.getV x = s.getV y then s.pc + 2 else s.pc + 4) ∧
      Unchanged s t [.pc])

/-- `BNNN` (R62): PC is NNN + V0, not reduced to 12 bits. -/
def Obligations.JumpWithOffsetAddsV0 : Prop :=
  ∀ (nnn : BitVec 12) (s : State),
    ∃ t, exec (.jpV0 nnn) s = .next t ∧ t.pc.toNat = nnn.toNat + (s.getV 0).toNat ∧ Unchanged s t [.pc]

/-! ## Registers and ALU -/

/-- `6XNN` (R65): the word 0x6XNN; Vx is NN; nothing else but PC changes, VF included unless x names it. -/
def Obligations.LoadImmediate : Prop :=
  ∀ (x : Reg) (nn : Byte) (s : State), decodeWord (formatI 0x6 x nn) = .ok (.ldImm x nn) ∧
    ∃ t, exec (.ldImm x nn) s = .next t ∧ t.getV x = nn ∧ t.pc = s.pc + 2 ∧ Unchanged s t [.pc, .reg x]

/-- `7XNN` (R66): the word 0x7XNN; Vx is (Vx + NN) mod 256; "no flag change". -/
def Obligations.AddImmediateWrapsWithoutFlag : Prop :=
  ∀ (x : Reg) (nn : Byte) (s : State), decodeWord (formatI 0x7 x nn) = .ok (.addImm x nn) ∧
    ∃ t, exec (.addImm x nn) s = .next t ∧ (t.getV x).toNat = ((s.getV x).toNat + nn.toNat) % 256 ∧
      t.pc = s.pc + 2 ∧ Unchanged s t [.pc, .reg x]

/-- `8XY0` (R67): the word 0x8XY0; Vx is Vy. -/
def Obligations.CopyRegister : Prop :=
  ∀ (x y : Reg) (s : State), decodeWord (formatR 0x8 x y 0x0) = .ok (.ldReg x y) ∧
    ∃ t, exec (.ldReg x y) s = .next t ∧ t.getV x = s.getV y ∧ t.pc = s.pc + 2 ∧ Unchanged s t [.pc, .reg x]

/-- `8XY1`, `8XY2`, `8XY3` (R68, R69, R70): bit by bit OR, AND, XOR; VF is not written unless x names it (D28). -/
def Obligations.LogicIsBitwiseWithoutFlag : Prop :=
  ∀ (x y : Reg) (s : State),
    (∃ t, exec (.orReg x y) s = .next t ∧
      (∀ k, k < 8 → (t.getV x).getLsbD k = ((s.getV x).getLsbD k || (s.getV y).getLsbD k)) ∧
      t.pc = s.pc + 2 ∧ Unchanged s t [.pc, .reg x]) ∧
    (∃ t, exec (.andReg x y) s = .next t ∧
      (∀ k, k < 8 → (t.getV x).getLsbD k = ((s.getV x).getLsbD k && (s.getV y).getLsbD k)) ∧
      t.pc = s.pc + 2 ∧ Unchanged s t [.pc, .reg x]) ∧
    (∃ t, exec (.xorReg x y) s = .next t ∧
      (∀ k, k < 8 → (t.getV x).getLsbD k = ((s.getV x).getLsbD k ^^ (s.getV y).getLsbD k)) ∧
      t.pc = s.pc + 2 ∧ Unchanged s t [.pc, .reg x])

/-- `8XY4` (R71, S1): VF is 1 iff Vx + Vy > 255; Vx is the sum mod 256 unless x is F, where VF keeps the flag and the sum
is lost (R64, D9). -/
def Obligations.AddWritesCarry : Prop :=
  ∀ (x y : Reg) (s : State),
    ∃ t, exec (.addReg x y) s = .next t ∧
      t.getV VF = (if 255 < (s.getV x).toNat + (s.getV y).toNat then 1 else 0) ∧
      (x ≠ VF → (t.getV x).toNat = ((s.getV x).toNat + (s.getV y).toNat) % 256) ∧
      t.pc = s.pc + 2 ∧ Unchanged s t [.pc, .reg x, .reg VF]

/-- `8XY5` and `8XY7` (R72, R74, S2): VF is 1 iff there is no borrow, of the values before the instruction; Vx is the
difference mod 256 unless x is F (R64, D9). -/
def Obligations.SubtractWritesNoBorrow : Prop :=
  ∀ (x y : Reg) (s : State),
    (∃ t, exec (.subReg x y) s = .next t ∧
      t.getV VF = (if (s.getV y).toNat ≤ (s.getV x).toNat then 1 else 0) ∧
      (x ≠ VF → (t.getV x).toNat = (256 + (s.getV x).toNat - (s.getV y).toNat) % 256) ∧
      t.pc = s.pc + 2 ∧ Unchanged s t [.pc, .reg x, .reg VF]) ∧
    (∃ t, exec (.subnReg x y) s = .next t ∧
      t.getV VF = (if (s.getV x).toNat ≤ (s.getV y).toNat then 1 else 0) ∧
      (x ≠ VF → (t.getV x).toNat = (256 + (s.getV y).toNat - (s.getV x).toNat) % 256) ∧
      t.pc = s.pc + 2 ∧ Unchanged s t [.pc, .reg x, .reg VF])

/-- `8XY6` and `8XYE` (R73, R75): Vx is halved or doubled mod 256, VF the bit shifted out, Vy neither read nor written
(y is not in the result; it stays in the instruction by log 26). With x = F the shift is of the flag just written: 0, or 2 iff bit 7 was 1 (R64, D9). -/
def Obligations.ShiftsWriteTheBitShiftedOut : Prop :=
  ∀ (x y : Reg) (s : State),
    (∃ t, exec (.shr x y) s = .next t ∧
      (x ≠ VF → (t.getV x).toNat = (s.getV x).toNat / 2 ∧ (t.getV VF).toNat = (s.getV x).toNat % 2) ∧
      (x = VF → t.getV VF = 0) ∧ t.pc = s.pc + 2 ∧ Unchanged s t [.pc, .reg x, .reg VF]) ∧
    (∃ t, exec (.shl x y) s = .next t ∧
      (x ≠ VF → (t.getV x).toNat = (s.getV x).toNat * 2 % 256 ∧ (t.getV VF).toNat = (s.getV x).toNat / 128) ∧
      (x = VF → (t.getV VF).toNat = (s.getV VF).toNat / 128 * 2) ∧
      t.pc = s.pc + 2 ∧ Unchanged s t [.pc, .reg x, .reg VF])

/-- `CXNN` (R76; the draw is a FREE VALUE, D16, log 5, so this holds for every draw): Vx is the draw AND NN, one draw is
consumed, and a bit of Vx where NN has 0 is 0. -/
def Obligations.RandomLoadMasksTheDraw : Prop :=
  ∀ (x : Reg) (nn : Byte) (s : State),
    ∃ t, exec (.rnd x nn) s = .next t ∧ t.getV x = Config.rnd s.draws &&& nn ∧ t.draws = s.draws + 1 ∧
      (∀ k, nn.getLsbD k = false → (t.getV x).getLsbD k = false) ∧ t.pc = s.pc + 2 ∧
      Unchanged s t [.pc, .reg x, .draws]

/-- VF changes only by an instruction of R10's list or one that names VF as its destination; a flag written by the six
is 0 or 1 unless the instruction names VF itself (R10; the case x = F is D9), or the instruction faulted. -/
def Obligations.OnlyFlagWritersTouchVF : Prop :=
  ∀ (i : Instr) (s t : State), exec i s = .next t →
    (t.getV VF ≠ s.getV VF → writesFlag i = true ∨ destinationIsVF i = true) ∧
    (writesFlag i = true → destinationIsVF i = false →
      (t.getV VF = 0 ∨ t.getV VF = 1) ∨ ∃ c, t = s.takeFault c (some (encode i)))

/-! ## Index register and memory -/

/-- `ANNN` (R78): the word 0xANNN; I is NNN. -/
def Obligations.LoadIndex : Prop :=
  ∀ (nnn : BitVec 12) (s : State), decodeWord (formatA 0xA nnn) = .ok (.ldI nnn) ∧
    ∃ t, exec (.ldI nnn) s = .next t ∧ t.I.toNat = nnn.toNat ∧ t.pc = s.pc + 2 ∧ Unchanged s t [.pc, .index]

/-- `FX1E` (R79): I is (I + Vx) mod 65536, VF not written; the wrap is D14. -/
def Obligations.AddToIndexWrapsWithoutFlag : Prop :=
  ∀ (x : Reg) (s : State),
    ∃ t, exec (.addI x) s = .next t ∧ t.I.toNat = (s.I.toNat + (s.getV x).toNat) % 65536 ∧ t.pc = s.pc + 2 ∧
      Unchanged s t [.pc, .index]

/-- `FX29` (R80): the word 0xFX29; I is Vx · 5 for every Vx, no mask (D29). -/
def Obligations.PointAtGlyph : Prop :=
  ∀ (x : Reg) (s : State), decodeWord (formatI 0xF x 0x29) = .ok (.ldF x) ∧
    ∃ t, exec (.ldF x) s = .next t ∧ t.I.toNat = (s.getV x).toNat * 5 ∧ t.pc = s.pc + 2 ∧
      Unchanged s t [.pc, .index]

/-- `FX33` in range (R81): the three bytes at I are the decimal digits of Vx; no other byte and no other part changes, I
included (D26). -/
def Obligations.StoreDecimalDigits : Prop :=
  ∀ (x : Reg) (s : State), s.mem.wf s.params = true → s.I.toNat + 2 < 4096 →
    ∃ t, exec (.ldB x) s = .next t ∧
      (t.readByte s.base).toNat * 100 + (t.readByte (s.base + 1)).toNat * 10 + (t.readByte (s.base + 2)).toNat
        = (s.getV x).toNat ∧
      (t.readByte (s.base + 1)).toNat < 10 ∧ (t.readByte (s.base + 2)).toNat < 10 ∧
      t.pc = s.pc + 2 ∧ Unchanged s t (.pc :: bytesAt s.base 3)

/-- `FX55` in range (R82): byte I + k is Vk for k = 0..x; no other byte and no other part changes, I included (R77;
D26). -/
def Obligations.StoreRegisters : Prop :=
  ∀ (x : Reg) (s : State), s.mem.wf s.params = true → s.I.toNat + x.val < 4096 →
    ∃ t, exec (.storeRegs x) s = .next t ∧ (∀ k : Reg, k ≤ x → t.readByte (s.base + k.val) = s.getV k) ∧
      t.pc = s.pc + 2 ∧ Unchanged s t (.pc :: bytesAt s.base (x.val + 1))

/-- `FX65` in range (R83): Vk is byte I + k for k = 0..x; registers above Vx, memory and I are unchanged (D26). -/
def Obligations.LoadRegisters : Prop :=
  ∀ (x : Reg) (s : State), s.I.toNat + x.val < 4096 →
    ∃ t, exec (.loadRegs x) s = .next t ∧ (∀ k : Reg, k ≤ x → t.getV k = s.readByte (s.base + k.val)) ∧
      t.pc = s.pc + 2 ∧ Unchanged s t (.pc :: regsTo x)

/-- A store followed by a load at the same I round-trips V0..Vx (S8 as meant, conflict C3; R77, R82, R83; I stays by
D26): from any state with the memory, parameters and I that the store left. -/
def Obligations.StoreThenLoadRoundTrips : Prop :=
  ∀ (x : Reg) (s t u : State), s.mem.wf s.params = true → s.I.toNat + x.val < 4096 →
    exec (.storeRegs x) s = .next t → u.mem = t.mem → u.params = t.params → u.I = t.I →
    ∃ v, exec (.loadRegs x) u = .next v ∧ (∀ k : Reg, k ≤ x → v.getV k = s.getV k) ∧
      (∀ k : Reg, x < k → v.getV k = u.getV k) ∧ v.I = s.I

/-- An access range that leaves memory latches MemOutOfBounds with the lowest offending address and changes nothing else
(R96, R99; D6, D30): `FX33` with I + 2, `FX55` and `FX65` with I + x, `DXYN` with n > 0 and I + n − 1 at 4096 or above. -/
def Obligations.OutOfRangeAccessLatchesMemOutOfBounds : Prop :=
  ∀ (x y : Reg) (n : BitVec 4) (s : State),
    (4096 ≤ s.I.toNat + 2 → ∃ t, exec (.ldB x) s = .next t ∧ Unchanged s t [.latch] ∧
      t.fault = some ⟨.memOutOfBounds (max s.I.toNat 4096), some (formatI 0xF x 0x33), s.pc⟩) ∧
    (4096 ≤ s.I.toNat + x.val → ∃ t, exec (.storeRegs x) s = .next t ∧ Unchanged s t [.latch] ∧
      t.fault = some ⟨.memOutOfBounds (max s.I.toNat 4096), some (formatI 0xF x 0x55), s.pc⟩) ∧
    (4096 ≤ s.I.toNat + x.val → ∃ t, exec (.loadRegs x) s = .next t ∧ Unchanged s t [.latch] ∧
      t.fault = some ⟨.memOutOfBounds (max s.I.toNat 4096), some (formatI 0xF x 0x65), s.pc⟩) ∧
    (0 < n.toNat → 4096 ≤ s.I.toNat + n.toNat - 1 → ∃ t, exec (.drw x y n) s = .next t ∧ Unchanged s t [.latch] ∧
      t.fault = some ⟨.memOutOfBounds (max s.I.toNat 4096), some (formatR 0xD x y n), s.pc⟩)

/-! ## Framebuffer -/

/-- `00E0` (R84): the word 0x00E0; all 2048 pixels are 0; VF and everything else but PC stay. -/
def Obligations.ClearUnsetsEveryPixel : Prop :=
  ∀ s : State, decodeWord 0x00E0 = .ok .cls ∧
    ∃ t, exec .cls s = .next t ∧ (∀ (y : Fin 32) (x : Fin 64), t.fb.pixel y x = false) ∧ t.pc = s.pc + 2 ∧
      Unchanged s t [.pc, .pixels]

/-- THE DRAW LOOP IS ITS CLOSED FORM (R85, R86): a pixel is toggled exactly when a 1-bit of the sprite lands on it, the
others are untouched, and the collision flag is set exactly when a 1-bit lands on a pixel that was set before. The
sprite has at most 15 rows, as `n` has 4 bits. -/
def Obligations.DrawLoopIsItsClosedForm : Prop :=
  ∀ (fb : Framebuffer) (vx vy : Byte) (rows : List Byte), rows.length ≤ 15 →
    (∀ (y : Fin 32) (x : Fin 64),
      (spriteCovers vx vy rows y x → (fb.draw vx vy rows).1.pixel y x = !fb.pixel y x) ∧
      (¬ spriteCovers vx vy rows y x → (fb.draw vx vy rows).1.pixel y x = fb.pixel y x)) ∧
    ((fb.draw vx vy rows).2 = true ↔
      ∃ (y : Fin 32) (x : Fin 64), spriteCovers vx vy rows y x ∧ fb.pixel y x = true)

/-- `DXYN` whose rows are in range, or with n = 0 (R85; n = 0 with I out of range is D17, x or y = F is D10): pixels and
VF as the closed form says for the n bytes at I and the values of Vx and Vy before the instruction; I, memory and
everything else but PC stay (R77; D26). -/
def Obligations.DrawTogglesItsPixelsAndWritesCollision : Prop :=
  ∀ (x y : Reg) (n : BitVec 4) (s : State), n.toNat = 0 ∨ s.I.toNat + n.toNat - 1 < 4096 →
    ∃ t, exec (.drw x y n) s = .next t ∧
      (∀ (r : Fin 32) (c : Fin 64),
        (spriteCovers (s.getV x) (s.getV y) (s.readBytes s.base n.toNat) r c → t.fb.pixel r c = !s.fb.pixel r c) ∧
        (¬ spriteCovers (s.getV x) (s.getV y) (s.readBytes s.base n.toNat) r c →
          t.fb.pixel r c = s.fb.pixel r c)) ∧
      ((∃ (r : Fin 32) (c : Fin 64), spriteCovers (s.getV x) (s.getV y) (s.readBytes s.base n.toNat) r c ∧
        s.fb.pixel r c = true) → t.getV VF = 1) ∧
      ((¬ ∃ (r : Fin 32) (c : Fin 64), spriteCovers (s.getV x) (s.getV y) (s.readBytes s.base n.toNat) r c ∧
        s.fb.pixel r c = true) → t.getV VF = 0) ∧
      t.pc = s.pc + 2 ∧ Unchanged s t [.pc, .reg VF, .pixels]

/-- Self-inverse, and the flag of the second draw (R86): the same sprite drawn twice restores the framebuffer, and the
second flag is 1 exactly when some pixel of the sprite was unset before the first draw. -/
def Obligations.DrawTwiceRestoresTheFramebuffer : Prop :=
  ∀ (fb : Framebuffer) (vx vy : Byte) (rows : List Byte), rows.length ≤ 15 →
    ((fb.draw vx vy rows).1.draw vx vy rows).1 = fb ∧
    (((fb.draw vx vy rows).1.draw vx vy rows).2 = true ↔
      ∃ (y : Fin 32) (x : Fin 64), spriteCovers vx vy rows y x ∧ fb.pixel y x = false)

/-! ## Keypad, timers, ports -/

/-- `EX9E` and `EXA1` with Vx ≤ 15 (R87, R88): skip iff the key named by the value of Vx is pressed, is not pressed. -/
def Obligations.KeySkips : Prop :=
  ∀ (x : Reg) (s : State) (h : (s.getV x).toNat < 16),
    (∃ t, exec (.skp x) s = .next t ∧
      t.pc = (if s.key[(s.getV x).toNat] = true then s.pc + 4 else s.pc + 2) ∧ Unchanged s t [.pc]) ∧
    (∃ t, exec (.sknp x) s = .next t ∧
      t.pc = (if s.key[(s.getV x).toNat] = true then s.pc + 2 else s.pc + 4) ∧ Unchanged s t [.pc])

/-- `EX9E` and `EXA1` with Vx > 15 (R87, R88, R97; that they fault is D12): BadKeyIndex is latched with the value, the
word and the fetch address, and nothing else changes (R53, R100; both are D6, log 10). -/
def Obligations.KeySkipsAboveFifteenLatchBadKeyIndex : Prop :=
  ∀ (x : Reg) (s : State), 15 < (s.getV x).toNat →
    (∃ t, exec (.skp x) s = .next t ∧ Unchanged s t [.latch] ∧
      t.fault = some ⟨.badKeyIndex (s.getV x), some (formatI 0xE x 0x9E), s.pc⟩) ∧
    (∃ t, exec (.sknp x) s = .next t ∧ Unchanged s t [.latch] ∧
      t.fault = some ⟨.badKeyIndex (s.getV x), some (formatI 0xE x 0xA1), s.pc⟩)

/-- `FX0A` (R89): with no key pressed the step changes nothing, PC included; with k the lowest pressed key (D13) Vx
is k. -/
def Obligations.WaitForKey : Prop :=
  ∀ (x : Reg) (s : State),
    ((∀ k : Fin 16, s.key[k] = false) → exec (.ldVxK x) s = .next s) ∧
    (∀ k : Fin 16, s.key[k] = true → (∀ j : Fin 16, j < k → s.key[j] = false) →
      ∃ t, exec (.ldVxK x) s = .next t ∧ (t.getV x).toNat = k.val ∧ t.pc = s.pc + 2 ∧ Unchanged s t [.pc, .reg x])

/-- `FX07`, `FX15`, `FX18` (R90, R91, R92; the directions are D11, general knowledge, log 13). -/
def Obligations.TimerTransfers : Prop :=
  ∀ (x : Reg) (s : State),
    (∃ t, exec (.ldVxDT x) s = .next t ∧ t.getV x = s.DT ∧ t.pc = s.pc + 2 ∧ Unchanged s t [.pc, .reg x]) ∧
    (∃ t, exec (.ldDTVx x) s = .next t ∧ t.DT = s.getV x ∧ t.pc = s.pc + 2 ∧ Unchanged s t [.pc, .delay]) ∧
    (∃ t, exec (.ldSTVx x) s = .next t ∧ t.ST = s.getV x ∧ t.pc = s.pc + 2 ∧ Unchanged s t [.pc, .sound])

/-- `tick` (R103): both timers down by 1, floored at 0, independently; nothing else changes (but the driver's
schedule), and it cannot fault. -/
def Obligations.TickCountsBothTimersDown : Prop :=
  ∀ s : State, s.nextMove = .tick →
    ∃ t, step s = .next t ∧ t.DT.toNat = s.DT.toNat - 1 ∧ t.ST.toNat = s.ST.toNat - 1 ∧
      Unchanged s t [.delay, .sound, .schedule]

/-- `key_set(k, pressed)` (R104; the index type is D27): one key bit and nothing else (but the driver's schedule). -/
def Obligations.KeySetChangesOneKey : Prop :=
  ∀ (k : Fin 16) (pressed : Bool) (s : State), s.nextMove = .keySet k pressed →
    ∃ t, step s = .next t ∧ t.key[k] = pressed ∧ (∀ j : Fin 16, j ≠ k → t.key[j] = s.key[j]) ∧
      Unchanged s t [.keys, .schedule]

/-- `tone` is 1 exactly when ST is nonzero (R106; D18, conflict C1), and it "changes only as a result of `FX18`, `tick`
or `reset`". -/
def Obligations.ToneChangesOnlyByItsThreeCauses : Prop :=
  (∀ s : State, s.tone = true ↔ s.ST ≠ 0) ∧
  ∀ s t : State, step s = .next t → t.tone ≠ s.tone →
    s.nextMove = .tick ∨ s.nextMove = .reset ∨ (s.nextMove = .step ∧ ∃ x, decodeWord s.wordAtPc = .ok (.ldSTVx x))

/-! ## Whole-machine rules -/

/-- THE ACCESS MATRIX, its writes (R22): an instruction either faults, changing only the latch (D6), or leaves every part
of the state outside its row unchanged. -/
def Obligations.InstructionsWriteOnlyTheirMatrixRow : Prop :=
  ∀ (i : Instr) (s t : State), s.mem.wf s.params = true → exec i s = .next t →
    (∃ c, t = s.takeFault c (some (encode i))) ∨ Unchanged s t (writes i s)

/-- PC moves by the advance alone in every instruction but the eleven of R11's list (`00EE`, `1NNN`, `2NNN`, `BNNN`, the
six skips, `FX0A`), unless the instruction faults; and `tick` and `key_set` never change PC (R11, R102). -/
def Obligations.OnlyControlInstructionsRedirectPc : Prop :=
  (∀ (i : Instr) (s t : State), exec i s = .next t → writesPc i = false →
    t.pc = s.pc + 2 ∨ ∃ c, t = s.takeFault c (some (encode i))) ∧
  ∀ s t : State, step s = .next t → (s.nextMove = .tick ∨ ∃ k b, s.nextMove = .keySet k b) → t.pc = s.pc

/-- "no instruction reads" ST (R15): another ST value before an instruction makes no difference but in ST after it. -/
def Obligations.NoInstructionReadsTheSoundTimer : Prop :=
  ∀ (i : Instr) (s : State) (v : Byte),
    mapNext (·.setST 0) (exec i (s.setST v)) = mapNext (·.setST 0) (exec i s) ∧
    ((∀ x, i ≠ .ldSTVx x) → exec i (s.setST v) = mapNext (·.setST v) (exec i s))

/-- The keypad is read by `EX9E`, `EXA1` and `FX0A` alone and written by none (R20, R22): any other instruction does the
same whatever the keys are, and every instruction that answers a next state leaves the keys as they were. -/
def Obligations.OnlyThreeInstructionsReadTheKeypad : Prop :=
  ∀ (i : Instr) (s : State),
    (∀ ks : Vector Bool 16, readsKeys i = false → exec i (s.setKeys ks) = mapNext (·.setKeys ks) (exec i s)) ∧
    ∀ t, exec i s = .next t → t.key = s.key

/-- The keys change only by `key_set` and `reset` (R20); the pixels only by `00E0`, `DXYN` and `reset` (R19: "Only
`00E0` and `DXYN` write it"). -/
def Obligations.KeysAndPixelsChangeOnlyByTheirCauses : Prop :=
  ∀ s t : State, step s = .next t →
    (t.key ≠ s.key → (∃ k b, s.nextMove = .keySet k b) ∨ s.nextMove = .reset) ∧
    (t.fb ≠ s.fb → s.nextMove = .reset ∨ (s.nextMove = .step ∧
        (decodeWord s.wordAtPc = .ok .cls ∨ ∃ x y n, decodeWord s.wordAtPc = .ok (.drw x y n))))

/-! ## Reset and load -/

/-- `reset` (R23, R113): PC = 0x200, pixels 0, FONT at 0..0x4F; all other values are D4, the latch D6. It works in every
state, halted ones too, and keeps the parameters (log 1); a `load` is accepted after it (log 7). -/
def Obligations.ResetPutsEveryPartAtItsResetValue : Prop :=
  ∀ s : State, s.nextMove = .reset →
    ∃ t, step s = .next t ∧ t.pc = 0x200 ∧ (∀ r, t.getV r = 0) ∧ t.I = 0 ∧ t.stack = [] ∧ t.DT = 0 ∧ t.ST = 0 ∧
      (∀ (y : Fin 32) (x : Fin 64), t.fb.pixel y x = false) ∧ (∀ k : Fin 16, t.key[k] = false) ∧
      (∀ (a : Nat) (h : a < 80), t.readByte a = s.params.font[a]) ∧ (∀ a, 80 ≤ a → t.readByte a = 0) ∧
      t.fault = none ∧ t.params = s.params ∧ t.stepped = false

/-- `load` (R33): before the first `step` after `reset` an image that fits stands byte for byte from 0x200 on, and nothing
else changes (but the driver's schedule); a longer image, and any image after a `step`, is refused (D20, log 7). -/
def Obligations.LoadPlacesTheImage : Prop :=
  ∀ (image : List Byte) (s : State), s.mem.wf s.params = true → s.nextMove = .load image →
    (s.stepped = false → image.length ≤ 3584 → ∃ t, step s = .next t ∧
      (∀ (k : Nat) (h : k < image.length), t.readByte (0x200 + k) = image[k]) ∧
      Unchanged s t (.schedule :: bytesAt 0x200 image.length)) ∧
    (s.stepped = false → 3584 < image.length → step s = .refused .imageTooLong) ∧
    (s.stepped = true → step s = .refused .loadAfterStep)

/-- Boot (R115, R116): after `reset` and then `load` of a program that fits, with any ticks and key changes between them
(R108; D19, D20), execution starts at the program's first word, with no fault latched, whatever state the machine was
in and whatever moves come later. -/
def Obligations.BootStartsAtTheFirstWord : Prop :=
  ∀ (b1 b2 : Byte) (rest : List Byte) (between later : List Move) (s : State),
    s.schedule = .reset :: (between ++ .load (b1 :: b2 :: rest) :: later) →
    (∀ m ∈ between, m = .tick ∨ ∃ k b, m = .keySet k b) → rest.length + 2 ≤ 3584 →
    ∃ t, runMoves (between.length + 2) s = .next t ∧ t.pc = 0x200 ∧ t.fault = none ∧ t.wordAtPc = b1 ++ b2 ∧
      t.schedule = later
end

