-- ==== Sys2Proof/Laws/Encoding.lean ====
section
/-! SUPPORT. The fields of a word built in each format (30_encoding.md R38, R39), and what its row's mask leaves of it
(R42). -/

namespace Sys2Proof

/-- A bit of 4 bits joined on top of 12. -/
theorem getElem_join_4_12 (a : BitVec 4) (b : BitVec 12) (i : Nat) (h : i < 16) :
    (a ++ b : BitVec 16)[i] = if h' : i < 12 then b[i] else a[i - 12] := BitVec.getElem_append h

/-- A bit of 4 bits joined on top of 8. -/
theorem getElem_join_4_8 (a : BitVec 4) (b : BitVec 8) (i : Nat) (h : i < 12) :
    (a ++ b : BitVec 12)[i] = if h' : i < 8 then b[i] else a[i - 8] := BitVec.getElem_append h

/-- A bit of 8 bits joined on top of 8. -/
theorem getElem_join_8_8 (a : BitVec 8) (b : BitVec 8) (i : Nat) (h : i < 16) :
    (a ++ b : BitVec 16)[i] = if h' : i < 8 then b[i] else a[i - 8] := BitVec.getElem_append h

/-- A bit of 4 bits joined on top of 4. -/
theorem getElem_join_4_4 (a : BitVec 4) (b : BitVec 4) (i : Nat) (h : i < 8) :
    (a ++ b : BitVec 8)[i] = if h' : i < 4 then b[i] else a[i - 4] := BitVec.getElem_append h

/-- The fields of a format A word: `op` and `nnn` as given, the others cut from `nnn`. -/
theorem decodeFields_formatA (op : BitVec 4) (nnn : BitVec 12) :
    decodeFields (highByte (formatA op nnn)) (lowByte (formatA op nnn)) =
      { op := op, x := (nnn.extractLsb' 8 4).toFin, y := (nnn.extractLsb' 4 4).toFin,
        n := nnn.extractLsb' 0 4, nn := nnn.extractLsb' 0 8, nnn := nnn } := by
  have hop : highNibble (highByte (formatA op nnn)) = op := by
    apply BitVec.eq_of_getLsbD_eq; intro i hi
    interval_cases i <;> simp [highNibble, highByte, formatA, getElem_join_4_12]
  have hx : lowNibble (highByte (formatA op nnn)) = nnn.extractLsb' 8 4 := by
    apply BitVec.eq_of_getLsbD_eq; intro i hi
    interval_cases i <;> simp [lowNibble, highByte, formatA, getElem_join_4_12]
  have hnn : lowByte (formatA op nnn) = nnn.extractLsb' 0 8 := by
    apply BitVec.eq_of_getLsbD_eq; intro i hi
    interval_cases i <;> simp [lowByte, formatA, getElem_join_4_12]
  have hy : highNibble (nnn.extractLsb' 0 8) = nnn.extractLsb' 4 4 := by
    apply BitVec.eq_of_getLsbD_eq; intro i hi
    interval_cases i <;> simp [highNibble]
  have hn : lowNibble (nnn.extractLsb' 0 8) = nnn.extractLsb' 0 4 := by
    apply BitVec.eq_of_getLsbD_eq; intro i hi
    interval_cases i <;> simp [lowNibble]
  have hnnn : nnn.extractLsb' 8 4 ++ nnn.extractLsb' 0 8 = nnn := by
    apply BitVec.eq_of_getLsbD_eq; intro i hi
    interval_cases i <;> simp [getElem_join_4_8]
  simp only [decodeFields, hop, hx, hnn, hy, hn, hnnn]

/-- The fields of a format I or X word: `op`, `x` and the byte as given. -/
theorem decodeFields_formatI (op : BitVec 4) (x : Reg) (nn : Byte) :
    decodeFields (highByte (formatI op x nn)) (lowByte (formatI op x nn)) =
      { op := op, x := x, y := (nn.extractLsb' 4 4).toFin, n := nn.extractLsb' 0 4, nn := nn,
        nnn := regBits x ++ nn } := by
  have h8 : (regBits x ++ nn).extractLsb' 8 4 = regBits x := by
    apply BitVec.eq_of_getLsbD_eq; intro i hi
    interval_cases i <;> simp [getElem_join_4_8]
  have h4 : (regBits x ++ nn).extractLsb' 4 4 = nn.extractLsb' 4 4 := by
    apply BitVec.eq_of_getLsbD_eq; intro i hi
    interval_cases i <;> simp [getElem_join_4_8]
  have h0 : (regBits x ++ nn).extractLsb' 0 4 = nn.extractLsb' 0 4 := by
    apply BitVec.eq_of_getLsbD_eq; intro i hi
    interval_cases i <;> simp [getElem_join_4_8]
  have hb : (regBits x ++ nn).extractLsb' 0 8 = nn := by
    apply BitVec.eq_of_getLsbD_eq; intro i hi
    interval_cases i <;> simp [getElem_join_4_8]
  have h := decodeFields_formatA op (regBits x ++ nn)
  rw [h8, h4, h0, hb] at h
  exact h

/-- The fields of a format R or D word: `op`, `x`, `y` and the nibble as given. -/
theorem decodeFields_formatR (op : BitVec 4) (x y : Reg) (n : BitVec 4) :
    decodeFields (highByte (formatR op x y n)) (lowByte (formatR op x y n)) =
      { op := op, x := x, y := y, n := n, nn := regBits y ++ n, nnn := regBits x ++ (regBits y ++ n) } := by
  have h4 : (regBits y ++ n).extractLsb' 4 4 = regBits y := by
    apply BitVec.eq_of_getLsbD_eq; intro i hi
    interval_cases i <;> simp [getElem_join_4_4]
  have h0 : (regBits y ++ n).extractLsb' 0 4 = n := by
    apply BitVec.eq_of_getLsbD_eq; intro i hi
    interval_cases i <;> simp [getElem_join_4_4]
  have h := decodeFields_formatI op x (regBits y ++ n)
  rw [h4, h0] at h
  exact h

/-- The two bytes of a word, joined high byte first, are the word (R37). -/
theorem highByte_append_lowByte (w : Word) : highByte w ++ lowByte w = w := by
  apply BitVec.eq_of_getLsbD_eq; intro i hi
  interval_cases i <;> simp [highByte, lowByte, getElem_join_8_8]

theorem highByte_append (a b : Byte) : highByte (a ++ b) = a := by
  apply BitVec.eq_of_getLsbD_eq; intro i hi
  interval_cases i <;> simp [highByte, getElem_join_8_8]

theorem lowByte_append (a b : Byte) : lowByte (a ++ b) = b := by
  apply BitVec.eq_of_getLsbD_eq; intro i hi
  interval_cases i <;> simp [lowByte, getElem_join_8_8]

/-- The mask 0xF000 leaves `op` of any word with `op` on top. -/
theorem formatA_mask (op : BitVec 4) (nnn : BitVec 12) : formatA op nnn &&& 0xF000 = formatA op 0 := by
  apply BitVec.eq_of_getLsbD_eq; intro i hi
  interval_cases i <;> simp [formatA, getElem_join_4_12]

theorem formatI_mask_op (op : BitVec 4) (x : Reg) (nn : Byte) : formatI op x nn &&& 0xF000 = formatA op 0 :=
  formatA_mask op (regBits x ++ nn)

theorem formatR_mask_op (op : BitVec 4) (x y : Reg) (n : BitVec 4) :
    formatR op x y n &&& 0xF000 = formatA op 0 := formatA_mask op (regBits x ++ (regBits y ++ n))

/-- The mask 0xF0FF leaves `op` and the byte. -/
theorem formatI_mask (op : BitVec 4) (x : Reg) (nn : Byte) : formatI op x nn &&& 0xF0FF = formatI op 0 nn := by
  apply BitVec.eq_of_getLsbD_eq; intro i hi
  interval_cases i <;> simp [formatI, regBits, getElem_join_4_12, getElem_join_4_8]

/-- The mask 0xF00F leaves `op` and the last nibble. -/
theorem formatR_mask (op : BitVec 4) (x y : Reg) (n : BitVec 4) :
    formatR op x y n &&& 0xF00F = formatR op 0 0 n := by
  apply BitVec.eq_of_getLsbD_eq; intro i hi
  interval_cases i <;> simp [formatR, regBits, getElem_join_4_12, getElem_join_4_8, getElem_join_4_4]

/-- A register read from a nibble has the nibble's bits. -/
theorem regBits_toFin (b : BitVec 4) : regBits b.toFin = b := rfl

/-- A word is its fields joined again, in each of the three formats (R38: `nn = y ++ n`, `nnn = x ++ y ++ n`). -/
theorem word_of_fields (b1 b2 : Byte) :
    b1 ++ b2 = formatA (decodeFields b1 b2).op (decodeFields b1 b2).nnn ∧
    b1 ++ b2 = formatI (decodeFields b1 b2).op (decodeFields b1 b2).x (decodeFields b1 b2).nn ∧
    b1 ++ b2 = formatR (decodeFields b1 b2).op (decodeFields b1 b2).x (decodeFields b1 b2).y
      (decodeFields b1 b2).n := by
  simp only [decodeFields, formatR, formatI, formatA, regBits_toFin]
  refine ⟨?_, ?_, ?_⟩ <;>
  · apply BitVec.eq_of_getLsbD_eq; intro i hi
    interval_cases i <;> simp [highNibble, lowNibble, getElem_join_4_12, getElem_join_4_8, getElem_join_8_8,
      getElem_join_4_4]

end Sys2Proof
end

