-- ==== Sys2Proof/Laws/Memory.lean ====
section
/-! SUPPORT. The laws of memory: a read after a write, every write keeps the canonical form, and canonical memories
that read alike are equal data. -/

namespace Sys2Proof.Machine.Memory

variable {d : Nat → Byte}

theorem wfFrom_cons {lo b : Nat} {u : Byte} {m : Memory} :
    wfFrom d lo ((b, u) :: m) = true ↔ lo ≤ b ∧ b < Config.memSize ∧ u ≠ d b ∧ wfFrom d (b + 1) m = true := by
  simp [wfFrom, Bool.and_eq_true, and_assoc]

theorem wfFrom_mono {lo hi : Nat} {m : Memory} (h : wfFrom d hi m = true) (le : lo ≤ hi) : wfFrom d lo m = true := by
  cases m with
  | nil => rfl
  | cons c m => obtain ⟨b, u⟩ := c; rw [wfFrom_cons] at h ⊢; exact ⟨le.trans h.1, h.2⟩

/-- Below the first entry a canonical memory reads as its reset contents. -/
theorem read_below {lo a : Nat} {m : Memory} (h : wfFrom d lo m = true) (lt : a < lo) : read d m a = d a := by
  cases m with
  | nil => rfl
  | cons c m =>
    obtain ⟨b, u⟩ := c
    obtain ⟨hb, -⟩ := wfFrom_cons.1 h
    simp [read, show a ≠ b by omega, show a < b by omega]

/-- A read after a write: the written byte at its address, every other byte as before (R25). -/
theorem read_write {lo : Nat} {m : Memory} (h : wfFrom d lo m = true) (a c : Nat) (v : Byte) :
    read d (write d m a v) c = if c = a then v else read d m c := by
  induction m generalizing lo with
  | nil =>
    by_cases hv : v = d a <;> by_cases hc : c = a <;> simp [write, read, hv, hc]
  | cons e m ih =>
    obtain ⟨b, u⟩ := e
    obtain ⟨-, -, -, hm⟩ := wfFrom_cons.1 h
    by_cases hab : a = b
    · subst hab
      by_cases hv : v = d a
      · by_cases hc : c = a
        · subst hc; simp [write, hv, read_below hm (Nat.lt_succ_self c)]
        · by_cases hlt : c < a
          · simp [write, hv, read, hc, hlt, read_below hm (Nat.lt_succ_of_lt hlt)]
          · simp [write, hv, read, hc, hlt]
      · by_cases hc : c = a <;> simp [write, hv, read, hc]
    · by_cases hlt : a < b
      · by_cases hv : v = d a
        · by_cases hc : c = a
          · subst hc; simp [write, hab, hlt, hv, read]
          · simp [write, hab, hlt, hv, hc]
        · by_cases hc : c = a
          · subst hc; simp [write, hab, hlt, hv, read]
          · by_cases hca : c < a
            · simp [write, hab, hlt, hv, read, hc, hca, show c ≠ b by omega, show c < b by omega]
            · simp [write, hab, hlt, hv, read, hc, hca]
      · have := ih hm
        by_cases hcb : c = b
        · subst hcb; simp [write, hab, hlt, read, show c ≠ a by omega]
        · by_cases hc : c < b
          · simp [write, hab, hlt, read, hcb, hc, show c ≠ a by omega]
          · simp [write, hab, hlt, read, hcb, hc, this]

/-- Every write inside the address space keeps the canonical form. -/
theorem write_wfFrom {lo : Nat} {m : Memory} (h : wfFrom d lo m = true) {a : Nat} (v : Byte) (hlo : lo ≤ a)
    (ha : a < Config.memSize) : wfFrom d lo (write d m a v) = true := by
  induction m generalizing lo with
  | nil =>
    by_cases hv : v = d a
    · simp [write, hv, wfFrom]
    · simp only [write, hv, if_false, wfFrom_cons]; exact ⟨hlo, ha, hv, rfl⟩
  | cons e m ih =>
    obtain ⟨b, u⟩ := e
    obtain ⟨hb, hlt, hu, hm⟩ := wfFrom_cons.1 h
    by_cases hab : a = b
    · subst hab
      by_cases hv : v = d a
      · simp only [write, if_true, hv]; exact wfFrom_mono hm (by omega)
      · simp only [write, if_true, hv, if_false, wfFrom_cons]; exact ⟨hlo, ha, hv, hm⟩
    · by_cases hl : a < b
      · by_cases hv : v = d a
        · simp only [write, hab, hl, hv, if_true, if_false]; exact h
        · simp only [write, hab, hl, hv, if_true, if_false, wfFrom_cons]
          exact ⟨hlo, ha, hv, by omega, hlt, hu, hm⟩
      · simp only [write, hab, hl, if_false, wfFrom_cons]
        exact ⟨hb, hlt, hu, ih hm (by omega)⟩

/-- Bytes written at ascending addresses: the list in its range, every other byte as before. -/
theorem read_writeBytes {m : Memory} (h : wfFrom d 0 m = true) (a : Nat) (vs : List Byte)
    (hs : a + vs.length ≤ Config.memSize) (c : Nat) :
    read d (writeBytes d m a vs) c = if a ≤ c then vs.getD (c - a) (read d m c) else read d m c := by
  induction vs generalizing m a with
  | nil => simp [writeBytes]
  | cons v vs ih =>
    simp only [List.length_cons] at hs
    have hw := write_wfFrom h v (Nat.zero_le a) (show a < Config.memSize by omega)
    rw [writeBytes, ih hw (a + 1) (by omega), read_write h]
    rcases Nat.lt_trichotomy c a with hc | hc | hc
    · simp [show ¬ a + 1 ≤ c by omega, show ¬ a ≤ c by omega, show c ≠ a by omega]
    · subst hc; simp
    · obtain ⟨k, rfl⟩ : ∃ k, c = a + 1 + k := ⟨c - (a + 1), by omega⟩
      simp [show a ≤ a + 1 + k by omega, show a + 1 + k - a = k + 1 by omega, show a + 1 + k ≠ a by omega]

theorem writeBytes_wfFrom {m : Memory} (h : wfFrom d 0 m = true) (a : Nat) (vs : List Byte)
    (hs : a + vs.length ≤ Config.memSize) : wfFrom d 0 (writeBytes d m a vs) = true := by
  induction vs generalizing m a with
  | nil => exact h
  | cons v vs ih =>
    simp only [List.length_cons] at hs
    exact ih (write_wfFrom h v (Nat.zero_le a) (by omega)) (a + 1) (by omega)

/-- Canonical memories that read alike are equal data. -/
theorem ext_of_read {lo : Nat} {m m' : Memory} (h : wfFrom d lo m = true) (h' : wfFrom d lo m' = true)
    (eq : ∀ a, read d m a = read d m' a) : m = m' := by
  induction m generalizing lo m' with
  | nil =>
    cases m' with
    | nil => rfl
    | cons e m' =>
      obtain ⟨b, u⟩ := e
      obtain ⟨-, -, hu, -⟩ := wfFrom_cons.1 h'
      exact absurd (by simpa [read] using (eq b).symm) hu
  | cons e m ih =>
    obtain ⟨b, u⟩ := e
    obtain ⟨hb, hs, hu, hm⟩ := wfFrom_cons.1 h
    cases m' with
    | nil => exact absurd (by simpa [read] using eq b) hu
    | cons e' m' =>
      obtain ⟨b', u'⟩ := e'
      obtain ⟨hb', hs', hu', hm'⟩ := wfFrom_cons.1 h'
      rcases Nat.lt_trichotomy b b' with hlt | rfl | hlt
      · exact absurd (by simpa [read, show b ≠ b' by omega, hlt] using eq b) hu
      · obtain rfl : u = u' := by simpa [read] using eq b
        have : m = m' := ih hm hm' fun a => by
          by_cases hab : a < b + 1
          · rw [read_below hm hab, read_below hm' hab]
          · simpa [read, show a ≠ b by omega, show ¬ a < b by omega] using eq a
        rw [this]
      · exact absurd (by simpa [read, show b' ≠ b by omega, hlt] using (eq b').symm) hu'

end Sys2Proof.Machine.Memory
end

