-- ==== Sys2Proof/Laws/State.lean ====
section
/-! SUPPORT. One lemma per field per update of State, true by rfl, and the normal form of every composite operation in
terms of the updates, so that no later proof unfolds a record update. -/

namespace Sys2Proof.Config

@[simp] theorem memSize_eq : memSize = 4096 := rfl
@[simp] theorem programBase_eq : programBase = 0x200 := rfl
@[simp] theorem programMax_eq : programMax = 3584 := rfl

end Sys2Proof.Config

namespace Sys2Proof.Machine.State

variable (s : State)


/-! ## setV -/

@[simp] theorem setV_V (x : Reg) (v : Byte) : (s.setV x v).V = s.V.set x v := rfl
@[simp] theorem setV_I (x : Reg) (v : Byte) : (s.setV x v).I = s.I := rfl
@[simp] theorem setV_pc (x : Reg) (v : Byte) : (s.setV x v).pc = s.pc := rfl
@[simp] theorem setV_stack (x : Reg) (v : Byte) : (s.setV x v).stack = s.stack := rfl
@[simp] theorem setV_DT (x : Reg) (v : Byte) : (s.setV x v).DT = s.DT := rfl
@[simp] theorem setV_ST (x : Reg) (v : Byte) : (s.setV x v).ST = s.ST := rfl
@[simp] theorem setV_fb (x : Reg) (v : Byte) : (s.setV x v).fb = s.fb := rfl
@[simp] theorem setV_key (x : Reg) (v : Byte) : (s.setV x v).key = s.key := rfl
@[simp] theorem setV_mem (x : Reg) (v : Byte) : (s.setV x v).mem = s.mem := rfl
@[simp] theorem setV_fault (x : Reg) (v : Byte) : (s.setV x v).fault = s.fault := rfl
@[simp] theorem setV_params (x : Reg) (v : Byte) : (s.setV x v).params = s.params := rfl
@[simp] theorem setV_draws (x : Reg) (v : Byte) : (s.setV x v).draws = s.draws := rfl
@[simp] theorem setV_schedule (x : Reg) (v : Byte) : (s.setV x v).schedule = s.schedule := rfl
@[simp] theorem setV_stepped (x : Reg) (v : Byte) : (s.setV x v).stepped = s.stepped := rfl
@[simp] theorem setV_readByte (x : Reg) (v : Byte) (b : Nat) : (s.setV x v).readByte b = s.readByte b := rfl
@[simp] theorem setV_readBytes (x : Reg) (v : Byte) (b k : Nat) : (s.setV x v).readBytes b k = s.readBytes b k := rfl

/-! ## setRegs -/

@[simp] theorem setRegs_V (vs : Vector Byte 16) : (s.setRegs vs).V = vs := rfl
@[simp] theorem setRegs_I (vs : Vector Byte 16) : (s.setRegs vs).I = s.I := rfl
@[simp] theorem setRegs_pc (vs : Vector Byte 16) : (s.setRegs vs).pc = s.pc := rfl
@[simp] theorem setRegs_stack (vs : Vector Byte 16) : (s.setRegs vs).stack = s.stack := rfl
@[simp] theorem setRegs_DT (vs : Vector Byte 16) : (s.setRegs vs).DT = s.DT := rfl
@[simp] theorem setRegs_ST (vs : Vector Byte 16) : (s.setRegs vs).ST = s.ST := rfl
@[simp] theorem setRegs_fb (vs : Vector Byte 16) : (s.setRegs vs).fb = s.fb := rfl
@[simp] theorem setRegs_key (vs : Vector Byte 16) : (s.setRegs vs).key = s.key := rfl
@[simp] theorem setRegs_mem (vs : Vector Byte 16) : (s.setRegs vs).mem = s.mem := rfl
@[simp] theorem setRegs_fault (vs : Vector Byte 16) : (s.setRegs vs).fault = s.fault := rfl
@[simp] theorem setRegs_params (vs : Vector Byte 16) : (s.setRegs vs).params = s.params := rfl
@[simp] theorem setRegs_draws (vs : Vector Byte 16) : (s.setRegs vs).draws = s.draws := rfl
@[simp] theorem setRegs_schedule (vs : Vector Byte 16) : (s.setRegs vs).schedule = s.schedule := rfl
@[simp] theorem setRegs_stepped (vs : Vector Byte 16) : (s.setRegs vs).stepped = s.stepped := rfl
@[simp] theorem setRegs_readByte (vs : Vector Byte 16) (b : Nat) : (s.setRegs vs).readByte b = s.readByte b := rfl
@[simp] theorem setRegs_readBytes (vs : Vector Byte 16) (b k : Nat) : (s.setRegs vs).readBytes b k = s.readBytes b k := rfl

/-! ## setI -/

@[simp] theorem setI_V (w : Word) : (s.setI w).V = s.V := rfl
@[simp] theorem setI_I (w : Word) : (s.setI w).I = w := rfl
@[simp] theorem setI_pc (w : Word) : (s.setI w).pc = s.pc := rfl
@[simp] theorem setI_stack (w : Word) : (s.setI w).stack = s.stack := rfl
@[simp] theorem setI_DT (w : Word) : (s.setI w).DT = s.DT := rfl
@[simp] theorem setI_ST (w : Word) : (s.setI w).ST = s.ST := rfl
@[simp] theorem setI_fb (w : Word) : (s.setI w).fb = s.fb := rfl
@[simp] theorem setI_key (w : Word) : (s.setI w).key = s.key := rfl
@[simp] theorem setI_mem (w : Word) : (s.setI w).mem = s.mem := rfl
@[simp] theorem setI_fault (w : Word) : (s.setI w).fault = s.fault := rfl
@[simp] theorem setI_params (w : Word) : (s.setI w).params = s.params := rfl
@[simp] theorem setI_draws (w : Word) : (s.setI w).draws = s.draws := rfl
@[simp] theorem setI_schedule (w : Word) : (s.setI w).schedule = s.schedule := rfl
@[simp] theorem setI_stepped (w : Word) : (s.setI w).stepped = s.stepped := rfl
@[simp] theorem setI_getV (w : Word) (r : Reg) : (s.setI w).getV r = s.getV r := rfl
@[simp] theorem setI_readByte (w : Word) (b : Nat) : (s.setI w).readByte b = s.readByte b := rfl
@[simp] theorem setI_readBytes (w : Word) (b k : Nat) : (s.setI w).readBytes b k = s.readBytes b k := rfl

/-! ## setPc -/

@[simp] theorem setPc_V (w : Word) : (s.setPc w).V = s.V := rfl
@[simp] theorem setPc_I (w : Word) : (s.setPc w).I = s.I := rfl
@[simp] theorem setPc_pc (w : Word) : (s.setPc w).pc = w := rfl
@[simp] theorem setPc_stack (w : Word) : (s.setPc w).stack = s.stack := rfl
@[simp] theorem setPc_DT (w : Word) : (s.setPc w).DT = s.DT := rfl
@[simp] theorem setPc_ST (w : Word) : (s.setPc w).ST = s.ST := rfl
@[simp] theorem setPc_fb (w : Word) : (s.setPc w).fb = s.fb := rfl
@[simp] theorem setPc_key (w : Word) : (s.setPc w).key = s.key := rfl
@[simp] theorem setPc_mem (w : Word) : (s.setPc w).mem = s.mem := rfl
@[simp] theorem setPc_fault (w : Word) : (s.setPc w).fault = s.fault := rfl
@[simp] theorem setPc_params (w : Word) : (s.setPc w).params = s.params := rfl
@[simp] theorem setPc_draws (w : Word) : (s.setPc w).draws = s.draws := rfl
@[simp] theorem setPc_schedule (w : Word) : (s.setPc w).schedule = s.schedule := rfl
@[simp] theorem setPc_stepped (w : Word) : (s.setPc w).stepped = s.stepped := rfl
@[simp] theorem setPc_getV (w : Word) (r : Reg) : (s.setPc w).getV r = s.getV r := rfl
@[simp] theorem setPc_readByte (w : Word) (b : Nat) : (s.setPc w).readByte b = s.readByte b := rfl
@[simp] theorem setPc_readBytes (w : Word) (b k : Nat) : (s.setPc w).readBytes b k = s.readBytes b k := rfl

/-! ## setStack -/

@[simp] theorem setStack_V (ws : List Word) : (s.setStack ws).V = s.V := rfl
@[simp] theorem setStack_I (ws : List Word) : (s.setStack ws).I = s.I := rfl
@[simp] theorem setStack_pc (ws : List Word) : (s.setStack ws).pc = s.pc := rfl
@[simp] theorem setStack_stack (ws : List Word) : (s.setStack ws).stack = ws := rfl
@[simp] theorem setStack_DT (ws : List Word) : (s.setStack ws).DT = s.DT := rfl
@[simp] theorem setStack_ST (ws : List Word) : (s.setStack ws).ST = s.ST := rfl
@[simp] theorem setStack_fb (ws : List Word) : (s.setStack ws).fb = s.fb := rfl
@[simp] theorem setStack_key (ws : List Word) : (s.setStack ws).key = s.key := rfl
@[simp] theorem setStack_mem (ws : List Word) : (s.setStack ws).mem = s.mem := rfl
@[simp] theorem setStack_fault (ws : List Word) : (s.setStack ws).fault = s.fault := rfl
@[simp] theorem setStack_params (ws : List Word) : (s.setStack ws).params = s.params := rfl
@[simp] theorem setStack_draws (ws : List Word) : (s.setStack ws).draws = s.draws := rfl
@[simp] theorem setStack_schedule (ws : List Word) : (s.setStack ws).schedule = s.schedule := rfl
@[simp] theorem setStack_stepped (ws : List Word) : (s.setStack ws).stepped = s.stepped := rfl
@[simp] theorem setStack_getV (ws : List Word) (r : Reg) : (s.setStack ws).getV r = s.getV r := rfl
@[simp] theorem setStack_readByte (ws : List Word) (b : Nat) : (s.setStack ws).readByte b = s.readByte b := rfl
@[simp] theorem setStack_readBytes (ws : List Word) (b k : Nat) : (s.setStack ws).readBytes b k = s.readBytes b k := rfl

/-! ## setDT -/

@[simp] theorem setDT_V (v : Byte) : (s.setDT v).V = s.V := rfl
@[simp] theorem setDT_I (v : Byte) : (s.setDT v).I = s.I := rfl
@[simp] theorem setDT_pc (v : Byte) : (s.setDT v).pc = s.pc := rfl
@[simp] theorem setDT_stack (v : Byte) : (s.setDT v).stack = s.stack := rfl
@[simp] theorem setDT_DT (v : Byte) : (s.setDT v).DT = v := rfl
@[simp] theorem setDT_ST (v : Byte) : (s.setDT v).ST = s.ST := rfl
@[simp] theorem setDT_fb (v : Byte) : (s.setDT v).fb = s.fb := rfl
@[simp] theorem setDT_key (v : Byte) : (s.setDT v).key = s.key := rfl
@[simp] theorem setDT_mem (v : Byte) : (s.setDT v).mem = s.mem := rfl
@[simp] theorem setDT_fault (v : Byte) : (s.setDT v).fault = s.fault := rfl
@[simp] theorem setDT_params (v : Byte) : (s.setDT v).params = s.params := rfl
@[simp] theorem setDT_draws (v : Byte) : (s.setDT v).draws = s.draws := rfl
@[simp] theorem setDT_schedule (v : Byte) : (s.setDT v).schedule = s.schedule := rfl
@[simp] theorem setDT_stepped (v : Byte) : (s.setDT v).stepped = s.stepped := rfl
@[simp] theorem setDT_getV (v : Byte) (r : Reg) : (s.setDT v).getV r = s.getV r := rfl
@[simp] theorem setDT_readByte (v : Byte) (b : Nat) : (s.setDT v).readByte b = s.readByte b := rfl
@[simp] theorem setDT_readBytes (v : Byte) (b k : Nat) : (s.setDT v).readBytes b k = s.readBytes b k := rfl

/-! ## setST -/

@[simp] theorem setST_V (v : Byte) : (s.setST v).V = s.V := rfl
@[simp] theorem setST_I (v : Byte) : (s.setST v).I = s.I := rfl
@[simp] theorem setST_pc (v : Byte) : (s.setST v).pc = s.pc := rfl
@[simp] theorem setST_stack (v : Byte) : (s.setST v).stack = s.stack := rfl
@[simp] theorem setST_DT (v : Byte) : (s.setST v).DT = s.DT := rfl
@[simp] theorem setST_ST (v : Byte) : (s.setST v).ST = v := rfl
@[simp] theorem setST_fb (v : Byte) : (s.setST v).fb = s.fb := rfl
@[simp] theorem setST_key (v : Byte) : (s.setST v).key = s.key := rfl
@[simp] theorem setST_mem (v : Byte) : (s.setST v).mem = s.mem := rfl
@[simp] theorem setST_fault (v : Byte) : (s.setST v).fault = s.fault := rfl
@[simp] theorem setST_params (v : Byte) : (s.setST v).params = s.params := rfl
@[simp] theorem setST_draws (v : Byte) : (s.setST v).draws = s.draws := rfl
@[simp] theorem setST_schedule (v : Byte) : (s.setST v).schedule = s.schedule := rfl
@[simp] theorem setST_stepped (v : Byte) : (s.setST v).stepped = s.stepped := rfl
@[simp] theorem setST_getV (v : Byte) (r : Reg) : (s.setST v).getV r = s.getV r := rfl
@[simp] theorem setST_readByte (v : Byte) (b : Nat) : (s.setST v).readByte b = s.readByte b := rfl
@[simp] theorem setST_readBytes (v : Byte) (b k : Nat) : (s.setST v).readBytes b k = s.readBytes b k := rfl

/-! ## setFb -/

@[simp] theorem setFb_V (f : Framebuffer) : (s.setFb f).V = s.V := rfl
@[simp] theorem setFb_I (f : Framebuffer) : (s.setFb f).I = s.I := rfl
@[simp] theorem setFb_pc (f : Framebuffer) : (s.setFb f).pc = s.pc := rfl
@[simp] theorem setFb_stack (f : Framebuffer) : (s.setFb f).stack = s.stack := rfl
@[simp] theorem setFb_DT (f : Framebuffer) : (s.setFb f).DT = s.DT := rfl
@[simp] theorem setFb_ST (f : Framebuffer) : (s.setFb f).ST = s.ST := rfl
@[simp] theorem setFb_fb (f : Framebuffer) : (s.setFb f).fb = f := rfl
@[simp] theorem setFb_key (f : Framebuffer) : (s.setFb f).key = s.key := rfl
@[simp] theorem setFb_mem (f : Framebuffer) : (s.setFb f).mem = s.mem := rfl
@[simp] theorem setFb_fault (f : Framebuffer) : (s.setFb f).fault = s.fault := rfl
@[simp] theorem setFb_params (f : Framebuffer) : (s.setFb f).params = s.params := rfl
@[simp] theorem setFb_draws (f : Framebuffer) : (s.setFb f).draws = s.draws := rfl
@[simp] theorem setFb_schedule (f : Framebuffer) : (s.setFb f).schedule = s.schedule := rfl
@[simp] theorem setFb_stepped (f : Framebuffer) : (s.setFb f).stepped = s.stepped := rfl
@[simp] theorem setFb_getV (f : Framebuffer) (r : Reg) : (s.setFb f).getV r = s.getV r := rfl
@[simp] theorem setFb_readByte (f : Framebuffer) (b : Nat) : (s.setFb f).readByte b = s.readByte b := rfl
@[simp] theorem setFb_readBytes (f : Framebuffer) (b k : Nat) : (s.setFb f).readBytes b k = s.readBytes b k := rfl

/-! ## setKeys -/

@[simp] theorem setKeys_V (ks : Vector Bool 16) : (s.setKeys ks).V = s.V := rfl
@[simp] theorem setKeys_I (ks : Vector Bool 16) : (s.setKeys ks).I = s.I := rfl
@[simp] theorem setKeys_pc (ks : Vector Bool 16) : (s.setKeys ks).pc = s.pc := rfl
@[simp] theorem setKeys_stack (ks : Vector Bool 16) : (s.setKeys ks).stack = s.stack := rfl
@[simp] theorem setKeys_DT (ks : Vector Bool 16) : (s.setKeys ks).DT = s.DT := rfl
@[simp] theorem setKeys_ST (ks : Vector Bool 16) : (s.setKeys ks).ST = s.ST := rfl
@[simp] theorem setKeys_fb (ks : Vector Bool 16) : (s.setKeys ks).fb = s.fb := rfl
@[simp] theorem setKeys_key (ks : Vector Bool 16) : (s.setKeys ks).key = ks := rfl
@[simp] theorem setKeys_mem (ks : Vector Bool 16) : (s.setKeys ks).mem = s.mem := rfl
@[simp] theorem setKeys_fault (ks : Vector Bool 16) : (s.setKeys ks).fault = s.fault := rfl
@[simp] theorem setKeys_params (ks : Vector Bool 16) : (s.setKeys ks).params = s.params := rfl
@[simp] theorem setKeys_draws (ks : Vector Bool 16) : (s.setKeys ks).draws = s.draws := rfl
@[simp] theorem setKeys_schedule (ks : Vector Bool 16) : (s.setKeys ks).schedule = s.schedule := rfl
@[simp] theorem setKeys_stepped (ks : Vector Bool 16) : (s.setKeys ks).stepped = s.stepped := rfl
@[simp] theorem setKeys_getV (ks : Vector Bool 16) (r : Reg) : (s.setKeys ks).getV r = s.getV r := rfl
@[simp] theorem setKeys_readByte (ks : Vector Bool 16) (b : Nat) : (s.setKeys ks).readByte b = s.readByte b := rfl
@[simp] theorem setKeys_readBytes (ks : Vector Bool 16) (b k : Nat) : (s.setKeys ks).readBytes b k = s.readBytes b k := rfl

/-! ## setMem -/

@[simp] theorem setMem_V (m : Memory) : (s.setMem m).V = s.V := rfl
@[simp] theorem setMem_I (m : Memory) : (s.setMem m).I = s.I := rfl
@[simp] theorem setMem_pc (m : Memory) : (s.setMem m).pc = s.pc := rfl
@[simp] theorem setMem_stack (m : Memory) : (s.setMem m).stack = s.stack := rfl
@[simp] theorem setMem_DT (m : Memory) : (s.setMem m).DT = s.DT := rfl
@[simp] theorem setMem_ST (m : Memory) : (s.setMem m).ST = s.ST := rfl
@[simp] theorem setMem_fb (m : Memory) : (s.setMem m).fb = s.fb := rfl
@[simp] theorem setMem_key (m : Memory) : (s.setMem m).key = s.key := rfl
@[simp] theorem setMem_mem (m : Memory) : (s.setMem m).mem = m := rfl
@[simp] theorem setMem_fault (m : Memory) : (s.setMem m).fault = s.fault := rfl
@[simp] theorem setMem_params (m : Memory) : (s.setMem m).params = s.params := rfl
@[simp] theorem setMem_draws (m : Memory) : (s.setMem m).draws = s.draws := rfl
@[simp] theorem setMem_schedule (m : Memory) : (s.setMem m).schedule = s.schedule := rfl
@[simp] theorem setMem_stepped (m : Memory) : (s.setMem m).stepped = s.stepped := rfl
@[simp] theorem setMem_getV (m : Memory) (r : Reg) : (s.setMem m).getV r = s.getV r := rfl

/-! ## setFault -/

@[simp] theorem setFault_V (f : Option FaultRecord) : (s.setFault f).V = s.V := rfl
@[simp] theorem setFault_I (f : Option FaultRecord) : (s.setFault f).I = s.I := rfl
@[simp] theorem setFault_pc (f : Option FaultRecord) : (s.setFault f).pc = s.pc := rfl
@[simp] theorem setFault_stack (f : Option FaultRecord) : (s.setFault f).stack = s.stack := rfl
@[simp] theorem setFault_DT (f : Option FaultRecord) : (s.setFault f).DT = s.DT := rfl
@[simp] theorem setFault_ST (f : Option FaultRecord) : (s.setFault f).ST = s.ST := rfl
@[simp] theorem setFault_fb (f : Option FaultRecord) : (s.setFault f).fb = s.fb := rfl
@[simp] theorem setFault_key (f : Option FaultRecord) : (s.setFault f).key = s.key := rfl
@[simp] theorem setFault_mem (f : Option FaultRecord) : (s.setFault f).mem = s.mem := rfl
@[simp] theorem setFault_fault (f : Option FaultRecord) : (s.setFault f).fault = f := rfl
@[simp] theorem setFault_params (f : Option FaultRecord) : (s.setFault f).params = s.params := rfl
@[simp] theorem setFault_draws (f : Option FaultRecord) : (s.setFault f).draws = s.draws := rfl
@[simp] theorem setFault_schedule (f : Option FaultRecord) : (s.setFault f).schedule = s.schedule := rfl
@[simp] theorem setFault_stepped (f : Option FaultRecord) : (s.setFault f).stepped = s.stepped := rfl
@[simp] theorem setFault_getV (f : Option FaultRecord) (r : Reg) : (s.setFault f).getV r = s.getV r := rfl
@[simp] theorem setFault_readByte (f : Option FaultRecord) (b : Nat) : (s.setFault f).readByte b = s.readByte b := rfl
@[simp] theorem setFault_readBytes (f : Option FaultRecord) (b k : Nat) : (s.setFault f).readBytes b k = s.readBytes b k := rfl

/-! ## setDraws -/

@[simp] theorem setDraws_V (n : Nat) : (s.setDraws n).V = s.V := rfl
@[simp] theorem setDraws_I (n : Nat) : (s.setDraws n).I = s.I := rfl
@[simp] theorem setDraws_pc (n : Nat) : (s.setDraws n).pc = s.pc := rfl
@[simp] theorem setDraws_stack (n : Nat) : (s.setDraws n).stack = s.stack := rfl
@[simp] theorem setDraws_DT (n : Nat) : (s.setDraws n).DT = s.DT := rfl
@[simp] theorem setDraws_ST (n : Nat) : (s.setDraws n).ST = s.ST := rfl
@[simp] theorem setDraws_fb (n : Nat) : (s.setDraws n).fb = s.fb := rfl
@[simp] theorem setDraws_key (n : Nat) : (s.setDraws n).key = s.key := rfl
@[simp] theorem setDraws_mem (n : Nat) : (s.setDraws n).mem = s.mem := rfl
@[simp] theorem setDraws_fault (n : Nat) : (s.setDraws n).fault = s.fault := rfl
@[simp] theorem setDraws_params (n : Nat) : (s.setDraws n).params = s.params := rfl
@[simp] theorem setDraws_draws (n : Nat) : (s.setDraws n).draws = n := rfl
@[simp] theorem setDraws_schedule (n : Nat) : (s.setDraws n).schedule = s.schedule := rfl
@[simp] theorem setDraws_stepped (n : Nat) : (s.setDraws n).stepped = s.stepped := rfl
@[simp] theorem setDraws_getV (n : Nat) (r : Reg) : (s.setDraws n).getV r = s.getV r := rfl
@[simp] theorem setDraws_readByte (n : Nat) (b : Nat) : (s.setDraws n).readByte b = s.readByte b := rfl
@[simp] theorem setDraws_readBytes (n : Nat) (b k : Nat) : (s.setDraws n).readBytes b k = s.readBytes b k := rfl

/-! ## setSchedule -/

@[simp] theorem setSchedule_V (ms : List Move) : (s.setSchedule ms).V = s.V := rfl
@[simp] theorem setSchedule_I (ms : List Move) : (s.setSchedule ms).I = s.I := rfl
@[simp] theorem setSchedule_pc (ms : List Move) : (s.setSchedule ms).pc = s.pc := rfl
@[simp] theorem setSchedule_stack (ms : List Move) : (s.setSchedule ms).stack = s.stack := rfl
@[simp] theorem setSchedule_DT (ms : List Move) : (s.setSchedule ms).DT = s.DT := rfl
@[simp] theorem setSchedule_ST (ms : List Move) : (s.setSchedule ms).ST = s.ST := rfl
@[simp] theorem setSchedule_fb (ms : List Move) : (s.setSchedule ms).fb = s.fb := rfl
@[simp] theorem setSchedule_key (ms : List Move) : (s.setSchedule ms).key = s.key := rfl
@[simp] theorem setSchedule_mem (ms : List Move) : (s.setSchedule ms).mem = s.mem := rfl
@[simp] theorem setSchedule_fault (ms : List Move) : (s.setSchedule ms).fault = s.fault := rfl
@[simp] theorem setSchedule_params (ms : List Move) : (s.setSchedule ms).params = s.params := rfl
@[simp] theorem setSchedule_draws (ms : List Move) : (s.setSchedule ms).draws = s.draws := rfl
@[simp] theorem setSchedule_schedule (ms : List Move) : (s.setSchedule ms).schedule = ms := rfl
@[simp] theorem setSchedule_stepped (ms : List Move) : (s.setSchedule ms).stepped = s.stepped := rfl
@[simp] theorem setSchedule_getV (ms : List Move) (r : Reg) : (s.setSchedule ms).getV r = s.getV r := rfl
@[simp] theorem setSchedule_readByte (ms : List Move) (b : Nat) : (s.setSchedule ms).readByte b = s.readByte b := rfl
@[simp] theorem setSchedule_readBytes (ms : List Move) (b k : Nat) : (s.setSchedule ms).readBytes b k = s.readBytes b k := rfl

/-! ## setStepped -/

@[simp] theorem setStepped_V (v : Bool) : (s.setStepped v).V = s.V := rfl
@[simp] theorem setStepped_I (v : Bool) : (s.setStepped v).I = s.I := rfl
@[simp] theorem setStepped_pc (v : Bool) : (s.setStepped v).pc = s.pc := rfl
@[simp] theorem setStepped_stack (v : Bool) : (s.setStepped v).stack = s.stack := rfl
@[simp] theorem setStepped_DT (v : Bool) : (s.setStepped v).DT = s.DT := rfl
@[simp] theorem setStepped_ST (v : Bool) : (s.setStepped v).ST = s.ST := rfl
@[simp] theorem setStepped_fb (v : Bool) : (s.setStepped v).fb = s.fb := rfl
@[simp] theorem setStepped_key (v : Bool) : (s.setStepped v).key = s.key := rfl
@[simp] theorem setStepped_mem (v : Bool) : (s.setStepped v).mem = s.mem := rfl
@[simp] theorem setStepped_fault (v : Bool) : (s.setStepped v).fault = s.fault := rfl
@[simp] theorem setStepped_params (v : Bool) : (s.setStepped v).params = s.params := rfl
@[simp] theorem setStepped_draws (v : Bool) : (s.setStepped v).draws = s.draws := rfl
@[simp] theorem setStepped_schedule (v : Bool) : (s.setStepped v).schedule = s.schedule := rfl
@[simp] theorem setStepped_stepped (v : Bool) : (s.setStepped v).stepped = v := rfl
@[simp] theorem setStepped_getV (v : Bool) (r : Reg) : (s.setStepped v).getV r = s.getV r := rfl
@[simp] theorem setStepped_readByte (v : Bool) (b : Nat) : (s.setStepped v).readByte b = s.readByte b := rfl
@[simp] theorem setStepped_readBytes (v : Bool) (b k : Nat) : (s.setStepped v).readBytes b k = s.readBytes b k := rfl

/-! ## Registers -/

@[simp] theorem setV_getV_same (x : Reg) (v : Byte) : (s.setV x v).getV x = v := by simp [getV, setV]

@[simp] theorem setV_getV_ne (x r : Reg) (v : Byte) (h : r ≠ x) : (s.setV x v).getV r = s.getV r := by
  have h' : (x : Nat) ≠ (r : Nat) := fun e => h (Fin.ext e.symm)
  simp [getV, setV, h']

theorem setV_getV (x r : Reg) (v : Byte) : (s.setV x v).getV r = if r = x then v else s.getV r := by
  by_cases h : r = x
  · subst h; simp
  · simp [h]

@[simp] theorem setRegs_getV (vs : Vector Byte 16) (r : Reg) : (s.setRegs vs).getV r = vs[r] := rfl

theorem loadedRegs_get (x r : Reg) (b : Nat) :
    (s.loadedRegs x b)[r] = if r ≤ x then s.readByte (b + r.val) else s.getV r := by simp [loadedRegs]

theorem loadedRegs_getElem (x : Reg) (b k : Nat) (h : k < 16) :
    (s.loadedRegs x b)[k] = if (⟨k, h⟩ : Reg) ≤ x then s.readByte (b + k) else s.getV ⟨k, h⟩ := by simp [loadedRegs]

/-! ## A field set to what it holds -/

@[simp] theorem setPc_same : s.setPc s.pc = s := rfl
@[simp] theorem setPc_setPc (a b : Word) : (s.setPc a).setPc b = s.setPc b := rfl
@[simp] theorem setFlag_eq (v : Byte) : s.setFlag v = s.setV VF v := rfl

/-! ## Composite operations -/

@[simp] theorem advance_eq : s.advance = s.setPc (s.pc + 2) := rfl
@[simp] theorem rewind_eq : s.rewind = s.setPc (s.pc - 2) := rfl
@[simp] theorem push_eq (w : Word) : s.push w = s.setStack (s.stack ++ [w]) := rfl
@[simp] theorem dropTop_eq : s.dropTop = s.setStack s.stack.dropLast := rfl
@[simp] theorem takeFault_eq (c : Cause) (w : Option Word) : s.takeFault c w = s.setFault (some ⟨c, w, s.pc⟩) := rfl
@[simp] theorem popMove_eq : s.popMove =
    (s.setSchedule s.schedule.tail).setStepped (s.stepped || s.nextMove == .step) := rfl
@[simp] theorem keySet_eq (k : Fin 16) (b : Bool) : s.keySet k b = s.setKeys (s.key.set k b) := rfl
@[simp] theorem tick_eq : s.tick = (s.setDT (tickDown s.DT)).setST (tickDown s.ST) := rfl
@[simp] theorem writeBytes_eq (a : Nat) (vs : List Byte) :
    s.writeBytes a vs = s.setMem (s.mem.writeBytes (unlisted s.params) a vs) := rfl

@[simp] theorem skipIf_eq (c : Bool) : s.skipIf c = s.setPc (if c then s.pc + 2 else s.pc) := by
  cases c <;> rfl

/-- After an advance, a taken skip leaves `pc0 + 4`, a skip not taken `pc0 + 2` (R50, R52). -/
theorem advance_skipIf (c : Bool) : s.advance.skipIf c = s.setPc (if c then s.pc + 4 else s.pc + 2) := by
  cases c
  · rfl
  · simp [BitVec.add_assoc]

/-- The rewind undoes the advance: the state is the one before the step (R89). -/
@[simp] theorem advance_rewind : s.advance.rewind = s := by simp

end Sys2Proof.Machine.State
end

