-- ==== Sys2Proof/Laws/Ops.lean ====
section
/-! SUPPORT. What each shared operation can do, said once: the range check, raising a fault, an access, the key number,
the first pressed key, stores and loads, and the byte-level facts of a state. -/

namespace Sys2Proof.Machine

/-! ## Operands and flags -/

theorem addressWord_toNat (nnn : BitVec 12) : (addressWord nnn).toNat = nnn.toNat := by
  simp [addressWord, BitVec.toNat_setWidth]; omega

theorem byteWord_toNat (v : Byte) : (byteWord v).toNat = v.toNat := by
  simp [byteWord, BitVec.toNat_setWidth]; omega

/-- "carry `1 if a + b > 255 else 0`" (R63). -/
theorem carryFlag_eq (a b : Byte) : carryFlag a b = if 255 < a.toNat + b.toNat then 1 else 0 := by
  have h : (a.setWidth 9 + b.setWidth 9).getLsbD 8 = decide (255 < a.toNat + b.toNat) := by
    rw [BitVec.getLsbD, BitVec.toNat_add, BitVec.toNat_setWidth, BitVec.toNat_setWidth,
      Nat.testBit_eq_decide_div_mod_eq]
    simp; omega
  simp only [carryFlag, h, flagByte, decide_eq_true_eq]

/-- "flag `1 if a >= b else 0`", no borrow of a − b (R63). -/
theorem noBorrowFlag_eq (a b : Byte) : noBorrowFlag a b = if b.toNat ≤ a.toNat then 1 else 0 := by
  simp [noBorrowFlag, flagByte, BitVec.le_def]

/-! ## The range check -/

theorem firstOutOfRange_eq_none {b n : Nat} : firstOutOfRange b n = none ↔ n = 0 ∨ b + n ≤ 4096 := by
  unfold firstOutOfRange Config.memSize
  split <;> simp <;> omega

theorem firstOutOfRange_eq_some {b n a : Nat} :
    firstOutOfRange b n = some a ↔ 0 < n ∧ 4096 < b + n ∧ a = max b 4096 := by
  unfold firstOutOfRange Config.memSize
  split <;> simp <;> omega

/-! ## Results -/

theorem raise_eq (i : Instr) (c : Cause) (s : State) :
    raise i c s = .next (s.setFault (some ⟨c, some (encode i), s.pc⟩)) := rfl

theorem accessing_inRange {i : Instr} {b n : Nat} {k : State → State} {s : State}
    (h : n = 0 ∨ b + n ≤ 4096) : accessing i b n k s = .next (k s.advance) := by
  rw [accessing, firstOutOfRange_eq_none.2 h]

theorem accessing_outOfRange {i : Instr} {b n : Nat} {k : State → State} {s : State} (hn : 0 < n)
    (h : 4096 < b + n) : accessing i b n k s = raise i (.memOutOfBounds (max b 4096)) s := by
  rw [accessing, firstOutOfRange_eq_some.2 ⟨hn, h, rfl⟩]

/-- An access either raises MemOutOfBounds on the state before the step, or completes. -/
theorem accessing_cases {i : Instr} {b n : Nat} {k : State → State} {s t : State}
    (h : accessing i b n k s = .next t) :
    (0 < n ∧ 4096 < b + n ∧ t = s.takeFault (.memOutOfBounds (max b 4096)) (some (encode i))) ∨
    ((n = 0 ∨ b + n ≤ 4096) ∧ t = k s.advance) := by
  by_cases hr : n = 0 ∨ b + n ≤ 4096
  · rw [accessing_inRange hr] at h
    exact .inr ⟨hr, by injection h with h; exact h.symm⟩
  · rw [accessing_outOfRange (by omega) (by omega)] at h
    exact .inl ⟨by omega, by omega, by injection h with h; exact h.symm⟩

/-! ## Keys -/

theorem keyNumber_lt {v : Byte} (h : v.toNat < 16) : keyNumber v = some ⟨v.toNat, h⟩ := by simp [keyNumber, h]

theorem keyNumber_ge {v : Byte} (h : 16 ≤ v.toNat) : keyNumber v = none := by simp [keyNumber, h]

theorem firstPressed_eq_none {s : State} : s.firstPressed = none ↔ ∀ k : Fin 16, s.key[k] = false := by
  simp [State.firstPressed]

/-- The first pressed key is pressed, and no lower one is (R105). -/
theorem firstPressed_eq_some {s : State} {k : Fin 16} :
    s.firstPressed = some k ↔ s.key[k] = true ∧ ∀ j < k, s.key[j] = false := by
  constructor
  · intro h
    obtain ⟨hk, as, bs, hab, hbefore⟩ := List.find?_eq_some_iff_append.1 h
    refine ⟨hk, fun j hj => ?_⟩
    have hmem : j ∈ as := by
      have hall : j ∈ as ++ k :: bs := hab ▸ List.mem_finRange j
      have hp : (as ++ k :: bs).Pairwise (· < ·) := hab ▸ List.pairwise_lt_finRange 16
      rcases List.mem_append.1 hall with h' | h'
      · exact h'
      · rcases List.mem_cons.1 h' with rfl | h'
        · exact absurd hj (lt_irrefl _)
        · exact absurd ((List.pairwise_cons.1 (List.pairwise_append.1 hp).2.1).1 j h') (not_lt.2 hj.le)
    simpa using hbefore j hmem
  · rintro ⟨hk, hlow⟩
    match h : s.firstPressed with
    | none => exact absurd hk (by simp [firstPressed_eq_none.1 h k])
    | some j =>
      have hj : s.key[j] = true := by simpa using List.find?_some h
      rcases lt_trichotomy j k with hlt | rfl | hlt
      · exact absurd hj (by simp [hlow j hlt])
      · rfl
      · obtain ⟨-, as, bs, hab, hbefore⟩ := List.find?_eq_some_iff_append.1 h
        have hall : k ∈ as ++ j :: bs := hab ▸ List.mem_finRange k
        have hp : (as ++ j :: bs).Pairwise (· < ·) := hab ▸ List.pairwise_lt_finRange 16
        rcases List.mem_append.1 hall with h' | h'
        · exact absurd hk (by simpa using hbefore k h')
        · rcases List.mem_cons.1 h' with rfl | h'
          · exact absurd hlt (lt_irrefl _)
          · exact absurd ((List.pairwise_cons.1 (List.pairwise_append.1 hp).2.1).1 k h') (not_lt.2 hlt.le)

/-! ## Stores and fetch -/

/-- The bytes after a store in range: the stored list from its address on, every other byte as before (R25, R27). -/
theorem readByte_writeBytes {s : State} (hw : s.mem.wf s.params = true) (a : Nat) (vs : List Byte)
    (hs : a + vs.length ≤ 4096) (c : Nat) :
    (s.writeBytes a vs).readByte c = if a ≤ c then vs.getD (c - a) (s.readByte c) else s.readByte c :=
  Memory.read_writeBytes hw a vs hs c

theorem writeBytes_wf {s : State} (hw : s.mem.wf s.params = true) (a : Nat) (vs : List Byte)
    (hs : a + vs.length ≤ 4096) : (s.writeBytes a vs).mem.wf (s.writeBytes a vs).params = true :=
  Memory.writeBytes_wfFrom hw a vs hs

theorem length_regsUpTo (s : State) (x : Reg) : (s.regsUpTo x).length = x.val + 1 := by
  simp only [State.regsUpTo, List.length_take, Vector.length_toList]; omega

theorem getD_regsUpTo (s : State) (x r : Reg) (h : r ≤ x) (d : Byte) :
    (s.regsUpTo x).getD r.val d = s.getV r := by
  have h1 : r.val < (s.regsUpTo x).length := by rw [length_regsUpTo]; exact Nat.lt_succ_of_le h
  rw [List.getD_eq_getElem _ _ h1]
  simp [State.regsUpTo, State.getV]

theorem length_decimalDigits (v : Byte) : (decimalDigits v).length = 3 := rfl

theorem fetch_inRange {s : State} (h : s.fetchable) : firstOutOfRange s.pc.toNat 2 = none :=
  firstOutOfRange_eq_none.2 (.inr h)

theorem fetch_outOfRange {s : State} (h : ¬ s.fetchable) :
    firstOutOfRange s.pc.toNat 2 = some (max s.pc.toNat 4096) := by
  have h' : 4096 < s.pc.toNat + 2 := by unfold State.fetchable Config.memSize at h; omega
  exact firstOutOfRange_eq_some.2 ⟨by omega, h', rfl⟩

/-! ## One step -/

theorem instructionStep_halted {s : State} {r : FaultRecord} (h : s.fault = some r) : instructionStep s = .next s := by
  rw [instructionStep, h]

theorem instructionStep_running {s : State} (h : s.fault = none) : instructionStep s = runInstruction s := by
  rw [instructionStep, h]

theorem runInstruction_fetchFault {s : State} (h : ¬ s.fetchable) :
    runInstruction s = .next (s.takeFault (.memOutOfBounds (max s.pc.toNat 4096)) none) := by
  rw [runInstruction, fetch_outOfRange h]

theorem runInstruction_illegal {s : State} {e : Reject} (h : s.fetchable) (hd : decodeWord s.wordAtPc = .error e) :
    runInstruction s = .next (s.takeFault .unknownInstruction (some s.wordAtPc)) := by
  rw [runInstruction, fetch_inRange h]; simp only [hd]

theorem runInstruction_legal {s : State} {i : Instr} (h : s.fetchable) (hd : decodeWord s.wordAtPc = .ok i) :
    runInstruction s = exec i s := by
  rw [runInstruction, fetch_inRange h]; simp only [hd]

/-! ## Load and runs of moves -/

/-- A load that answers `t`: no `step` since the last `reset`, the image fits, and it is placed (R33, D20). -/
theorem load_cases {image : List Byte} {s t : State} (h : load image s = .next t) :
    s.stepped = false ∧ image.length ≤ 3584 ∧ t = s.writeBytes Config.programBase image := by
  unfold load at h
  split at h
  · cases h
  · rename_i hs
    split at h
    · rename_i hf
      injection h with h
      exact ⟨by simpa using hs, by simpa [imageFits] using hf, h.symm⟩
    · cases h

theorem load_places {image : List Byte} {s : State} (hs : s.stepped = false) (hl : image.length ≤ 3584) :
    load image s = .next (s.writeBytes Config.programBase image) := by simp [load, imageFits, hs, hl]

theorem runMoves_succ {k : Nat} {s t : State} (h : step s = .next t) : runMoves (k + 1) s = runMoves k t := by
  rw [runMoves, h]

end Sys2Proof.Machine
end

