-- ==== Sys2Proof/Laws/Exec.lean ====
section
/-! SUPPORT. What an instruction and a step can do, said once: an instruction either raises a fault on the state before
it or leaves the state `completed`, written in the updates of State alone; a step performs the driver's move. -/

namespace Sys2Proof.Machine

/-- The state an instruction leaves when it completes, from the state before it. -/
def completed (i : Instr) (s : State) : State :=
  match i with
  | .cls => (s.setPc (s.pc + 2)).setFb Framebuffer.clear
  | .ret => (s.setStack s.stack.dropLast).setPc (s.top.getD 0)
  | .jp nnn => s.setPc (addressWord nnn)
  | .call nnn => (s.setStack (s.stack ++ [s.pc + 2])).setPc (addressWord nnn)
  | .seImm x nn => s.setPc (if s.getV x == nn then s.pc + 4 else s.pc + 2)
  | .sneImm x nn => s.setPc (if s.getV x != nn then s.pc + 4 else s.pc + 2)
  | .seReg x y => s.setPc (if s.getV x == s.getV y then s.pc + 4 else s.pc + 2)
  | .ldImm x nn => (s.setPc (s.pc + 2)).setV x nn
  | .addImm x nn => (s.setPc (s.pc + 2)).setV x (s.getV x + nn)
  | .ldReg x y => (s.setPc (s.pc + 2)).setV x (s.getV y)
  | .orReg x y => (s.setPc (s.pc + 2)).setV x (s.getV x ||| s.getV y)
  | .andReg x y => (s.setPc (s.pc + 2)).setV x (s.getV x &&& s.getV y)
  | .xorReg x y => (s.setPc (s.pc + 2)).setV x (s.getV x ^^^ s.getV y)
  | .addReg x y => ((s.setPc (s.pc + 2)).setV x (s.getV x + s.getV y)).setV VF (carryFlag (s.getV x) (s.getV y))
  | .subReg x y => ((s.setPc (s.pc + 2)).setV x (s.getV x - s.getV y)).setV VF (noBorrowFlag (s.getV x) (s.getV y))
  | .shr x _ => (s.setPc (s.pc + 2)).flagThenShift x (shiftRightOut (s.getV x)) (· >>> 1)
  | .subnReg x y => ((s.setPc (s.pc + 2)).setV x (s.getV y - s.getV x)).setV VF (noBorrowFlag (s.getV y) (s.getV x))
  | .shl x _ => (s.setPc (s.pc + 2)).flagThenShift x (shiftLeftOut (s.getV x)) (· <<< 1)
  | .sneReg x y => s.setPc (if s.getV x != s.getV y then s.pc + 4 else s.pc + 2)
  | .ldI nnn => (s.setPc (s.pc + 2)).setI (addressWord nnn)
  | .jpV0 nnn => s.setPc (addressWord nnn + byteWord (s.getV 0))
  | .rnd x nn => ((s.setPc (s.pc + 2)).setV x (Config.rnd s.draws &&& nn)).setDraws (s.draws + 1)
  | .drw x y n => (s.setPc (s.pc + 2)).drawSprite (s.getV x) (s.getV y) (s.readBytes s.base n.toNat)
  | .skp x => s.setPc (if s.key.getD (s.getV x).toNat false then s.pc + 4 else s.pc + 2)
  | .sknp x => s.setPc (if s.key.getD (s.getV x).toNat false then s.pc + 2 else s.pc + 4)
  | .ldVxDT x => (s.setPc (s.pc + 2)).setV x s.DT
  | .ldVxK x =>
    match s.firstPressed with
    | none => s
    | some k => (s.setPc (s.pc + 2)).setV x (BitVec.ofNat 8 k.val)
  | .ldDTVx x => (s.setPc (s.pc + 2)).setDT (s.getV x)
  | .ldSTVx x => (s.setPc (s.pc + 2)).setST (s.getV x)
  | .addI x => (s.setPc (s.pc + 2)).setI (s.I + byteWord (s.getV x))
  | .ldF x => (s.setPc (s.pc + 2)).setI (byteWord (s.getV x) * 5)
  | .ldB x => (s.setPc (s.pc + 2)).writeBytes s.base (decimalDigits (s.getV x))
  | .storeRegs x => (s.setPc (s.pc + 2)).writeBytes s.base (s.regsUpTo x)
  | .loadRegs x => (s.setPc (s.pc + 2)).setRegs (s.loadedRegs x s.base)

/-- When an instruction completes: the conditions of R93 do not hold. -/
def completes (i : Instr) (s : State) : Prop :=
  match i with
  | .ret => s.stack ≠ []
  | .call _ => s.stackFull = false
  | .skp x | .sknp x => (s.getV x).toNat < 16
  | .drw _ _ n => n.toNat = 0 ∨ s.base + n.toNat ≤ 4096
  | .ldB _ => s.base + 3 ≤ 4096
  | .storeRegs x | .loadRegs x => s.base + (x.val + 1) ≤ 4096
  | .cls | .jp _ | .seImm _ _ | .sneImm _ _ | .seReg _ _ | .ldImm _ _ | .addImm _ _ | .ldReg _ _ | .orReg _ _
  | .andReg _ _ | .xorReg _ _ | .addReg _ _ | .subReg _ _ | .shr _ _ | .subnReg _ _ | .shl _ _ | .sneReg _ _
  | .ldI _ | .jpV0 _ | .rnd _ _ | .ldVxDT _ | .ldVxK _ | .ldDTVx _ | .ldSTVx _ | .addI _ | .ldF _ => True

/-- An instruction whose condition holds completes. -/
theorem exec_completes {i : Instr} {s : State} (h : completes i s) : exec i s = .next (completed i s) := by
  cases i with
  | ret =>
    obtain ⟨ws, w, hw⟩ := List.eq_nil_or_concat s.stack |>.resolve_left h
    simp [exec, execRet, completed, State.top, hw]; rfl
  | call nnn => rw [exec, execCall, show s.stackFull = false from h]; rfl
  | seImm x nn => rw [exec, execSeImm, State.advance_skipIf]; rfl
  | sneImm x nn => rw [exec, execSneImm, State.advance_skipIf]; rfl
  | seReg x y => rw [exec, execSeReg, State.advance_skipIf]; rfl
  | sneReg x y => rw [exec, execSneReg, State.advance_skipIf]; rfl
  | skp x =>
    have h' : (s.getV x).toNat < 16 := h
    simp only [exec, execSkp, keyNumber_lt h', State.advance_skipIf, completed]
    simp [Vector.getD, h']
  | sknp x =>
    have h' : (s.getV x).toNat < 16 := h
    simp only [exec, execSknp, keyNumber_lt h', State.advance_skipIf, completed]
    cases hk : s.key[(s.getV x).toNat] <;> simp [Vector.getD, h', hk]
  | ldVxK x =>
    simp only [exec, execLdVxK, completed]
    cases s.firstPressed with
    | none => simp only [State.advance_rewind]
    | some k => rfl
  | drw x y n => rw [exec, execDrw, accessing_inRange h]; rfl
  | ldB x => rw [exec, execLdB, accessing_inRange (.inr h)]; rfl
  | storeRegs x => rw [exec, execStoreRegs, accessing_inRange (.inr h)]; rfl
  | loadRegs x => rw [exec, execLoadRegs, accessing_inRange (.inr h)]; rfl
  | _ => rfl

/-- An instruction whose condition fails raises a fault on the state before it. -/
theorem exec_raises {i : Instr} {s : State} (h : ¬ completes i s) :
    ∃ c, exec i s = .next (s.takeFault c (some (encode i))) := by
  cases i with
  | ret => have h' : s.stack = [] := not_not.1 h; exact ⟨.stackUnderflow, by simp [exec, execRet, State.top, h', raise]⟩
  | call nnn => exact ⟨.stackOverflow, by rw [exec, execCall, Bool.eq_true_of_not_eq_false h]; rfl⟩
  | skp x => exact ⟨_, by simp only [exec, execSkp, keyNumber_ge (not_lt.1 h)]; rfl⟩
  | sknp x => exact ⟨_, by simp only [exec, execSknp, keyNumber_ge (not_lt.1 h)]; rfl⟩
  | drw x y n =>
    obtain ⟨h1, h2⟩ := not_or.1 h
    exact ⟨_, by rw [exec, execDrw, accessing_outOfRange (by omega) (by omega)]; rfl⟩
  | ldB x => exact ⟨_, by rw [exec, execLdB, accessing_outOfRange (by omega) (not_le.1 h)]; rfl⟩
  | storeRegs x => exact ⟨_, by rw [exec, execStoreRegs, accessing_outOfRange (by omega) (not_le.1 h)]; rfl⟩
  | loadRegs x => exact ⟨_, by rw [exec, execLoadRegs, accessing_outOfRange (by omega) (not_le.1 h)]; rfl⟩
  | _ => exact absurd trivial h

/-- An instruction that answers a next state has raised a fault on the state before it, or completed. -/
theorem exec_cases {i : Instr} {s t : State} (h : exec i s = .next t) :
    (¬ completes i s ∧ ∃ c, t = s.takeFault c (some (encode i))) ∨ (completes i s ∧ t = completed i s) := by
  by_cases hc : completes i s
  · rw [exec_completes hc] at h; injection h with h; exact .inr ⟨hc, h.symm⟩
  · obtain ⟨c, he⟩ := exec_raises hc
    rw [he] at h; injection h with h; exact .inl ⟨hc, c, h.symm⟩

/-- An instruction step that answers `t`: halted, a fetch fault, an illegal word, or an instruction (R47). -/
theorem instructionStep_cases {s t : State} (h : instructionStep s = .next t) :
    (s.fault ≠ none ∧ t = s) ∨
    (s.fault = none ∧ ¬ s.fetchable ∧ t = s.takeFault (.memOutOfBounds (max s.pc.toNat 4096)) none) ∨
    (s.fault = none ∧ s.fetchable ∧ (∃ e, decodeWord s.wordAtPc = .error e) ∧
      t = s.takeFault .unknownInstruction (some s.wordAtPc)) ∨
    (s.fault = none ∧ s.fetchable ∧ ∃ i, decodeWord s.wordAtPc = .ok i ∧ exec i s = .next t) := by
  cases hf : s.fault with
  | some r => rw [instructionStep_halted hf] at h; injection h with h; exact .inl ⟨by simp, h.symm⟩
  | none =>
    rw [instructionStep_running hf] at h
    by_cases hp : s.fetchable
    · cases hd : decodeWord s.wordAtPc with
      | ok i => rw [runInstruction_legal hp hd] at h; exact .inr (.inr (.inr ⟨rfl, hp, i, rfl, h⟩))
      | error e =>
        rw [runInstruction_illegal hp hd] at h; injection h with h
        exact .inr (.inr (.inl ⟨rfl, hp, ⟨e, rfl⟩, h.symm⟩))
    · rw [runInstruction_fetchFault hp] at h; injection h with h
      exact .inr (.inl ⟨rfl, hp, h.symm⟩)

/-- A step that answers `t`: which move it was, and what the move did. -/
theorem step_cases {s t : State} (h : step s = .next t) :
    (s.nextMove = .step ∧ instructionStep s.popMove = .next t) ∨
    (s.nextMove = .tick ∧ t = s.popMove.tick) ∨
    (∃ k b, s.nextMove = .keySet k b ∧ t = s.popMove.keySet k b) ∨
    (s.nextMove = .reset ∧ t = s.popMove.resetBlock) ∨
    (∃ image, s.nextMove = .load image ∧ s.stepped = false ∧ image.length ≤ 3584 ∧
      t = s.popMove.writeBytes Config.programBase image) := by
  unfold step at h
  cases hm : s.nextMove with
  | step => rw [hm] at h; exact .inl ⟨rfl, h⟩
  | tick => rw [hm] at h; injection h with h; exact .inr (.inl ⟨rfl, h.symm⟩)
  | keySet k b => rw [hm] at h; injection h with h; exact .inr (.inr (.inl ⟨k, b, rfl, h.symm⟩))
  | reset => rw [hm] at h; injection h with h; exact .inr (.inr (.inr (.inl ⟨rfl, h.symm⟩)))
  | load image =>
    rw [hm] at h
    obtain ⟨hs, hl, ht⟩ := load_cases h
    exact .inr (.inr (.inr (.inr ⟨image, rfl, by simpa [hm] using hs, hl, ht⟩)))

end Sys2Proof.Machine
end

