-- ==== Sys2Proof/Laws/PerInstr.lean ====
section
/-! SUPPORT. Statements made per instruction. Family MatchesRow: the encoding of an instruction matches its own row of
the opcode map (30_encoding.md R42), mask and match. -/

namespace Sys2Proof.Laws.MatchesRow

/-- The word of `i` is admitted by the row of R42 that bears the number of `i`. -/
def Statement (i : Instr) : Prop := ∃ r ∈ opcodeTable, r.number = i.rowNumber ∧ r.admits (encode i) = true

/-- A row of the table, and what its mask leaves of the word, give the statement. -/
theorem of_row (i : Instr) (r : Row) (mem : r ∈ opcodeTable) (num : r.number = i.rowNumber)
    (fits : encode i &&& r.mask = r.pattern) : Statement i := ⟨r, mem, num, by simp [Row.admits, fits]⟩

theorem cls : Statement (.cls) :=
  of_row _ ⟨1, "00E0", 0xFFFF, 0x00E0⟩ (by decide) rfl (rfl)

theorem ret : Statement (.ret) :=
  of_row _ ⟨2, "00EE", 0xFFFF, 0x00EE⟩ (by decide) rfl (rfl)

theorem jp (nnn : BitVec 12) : Statement (.jp nnn) :=
  of_row _ ⟨3, "1NNN", 0xF000, 0x1000⟩ (by decide) rfl ((formatA_mask ..).trans (by decide))

theorem call (nnn : BitVec 12) : Statement (.call nnn) :=
  of_row _ ⟨4, "2NNN", 0xF000, 0x2000⟩ (by decide) rfl ((formatA_mask ..).trans (by decide))

theorem seImm (x : Reg) (nn : Byte) : Statement (.seImm x nn) :=
  of_row _ ⟨5, "3XNN", 0xF000, 0x3000⟩ (by decide) rfl ((formatI_mask_op ..).trans (by decide))

theorem sneImm (x : Reg) (nn : Byte) : Statement (.sneImm x nn) :=
  of_row _ ⟨6, "4XNN", 0xF000, 0x4000⟩ (by decide) rfl ((formatI_mask_op ..).trans (by decide))

theorem seReg (x y : Reg) : Statement (.seReg x y) :=
  of_row _ ⟨7, "5XY0", 0xF00F, 0x5000⟩ (by decide) rfl ((formatR_mask ..).trans (by decide))

theorem ldImm (x : Reg) (nn : Byte) : Statement (.ldImm x nn) :=
  of_row _ ⟨8, "6XNN", 0xF000, 0x6000⟩ (by decide) rfl ((formatI_mask_op ..).trans (by decide))

theorem addImm (x : Reg) (nn : Byte) : Statement (.addImm x nn) :=
  of_row _ ⟨9, "7XNN", 0xF000, 0x7000⟩ (by decide) rfl ((formatI_mask_op ..).trans (by decide))

theorem ldReg (x y : Reg) : Statement (.ldReg x y) :=
  of_row _ ⟨10, "8XY0", 0xF00F, 0x8000⟩ (by decide) rfl ((formatR_mask ..).trans (by decide))

theorem orReg (x y : Reg) : Statement (.orReg x y) :=
  of_row _ ⟨11, "8XY1", 0xF00F, 0x8001⟩ (by decide) rfl ((formatR_mask ..).trans (by decide))

theorem andReg (x y : Reg) : Statement (.andReg x y) :=
  of_row _ ⟨12, "8XY2", 0xF00F, 0x8002⟩ (by decide) rfl ((formatR_mask ..).trans (by decide))

theorem xorReg (x y : Reg) : Statement (.xorReg x y) :=
  of_row _ ⟨13, "8XY3", 0xF00F, 0x8003⟩ (by decide) rfl ((formatR_mask ..).trans (by decide))

theorem addReg (x y : Reg) : Statement (.addReg x y) :=
  of_row _ ⟨14, "8XY4", 0xF00F, 0x8004⟩ (by decide) rfl ((formatR_mask ..).trans (by decide))

theorem subReg (x y : Reg) : Statement (.subReg x y) :=
  of_row _ ⟨15, "8XY5", 0xF00F, 0x8005⟩ (by decide) rfl ((formatR_mask ..).trans (by decide))

theorem shr (x y : Reg) : Statement (.shr x y) :=
  of_row _ ⟨16, "8XY6", 0xF00F, 0x8006⟩ (by decide) rfl ((formatR_mask ..).trans (by decide))

theorem subnReg (x y : Reg) : Statement (.subnReg x y) :=
  of_row _ ⟨17, "8XY7", 0xF00F, 0x8007⟩ (by decide) rfl ((formatR_mask ..).trans (by decide))

theorem shl (x y : Reg) : Statement (.shl x y) :=
  of_row _ ⟨18, "8XYE", 0xF00F, 0x800E⟩ (by decide) rfl ((formatR_mask ..).trans (by decide))

theorem sneReg (x y : Reg) : Statement (.sneReg x y) :=
  of_row _ ⟨19, "9XY0", 0xF00F, 0x9000⟩ (by decide) rfl ((formatR_mask ..).trans (by decide))

theorem ldI (nnn : BitVec 12) : Statement (.ldI nnn) :=
  of_row _ ⟨20, "ANNN", 0xF000, 0xA000⟩ (by decide) rfl ((formatA_mask ..).trans (by decide))

theorem jpV0 (nnn : BitVec 12) : Statement (.jpV0 nnn) :=
  of_row _ ⟨21, "BNNN", 0xF000, 0xB000⟩ (by decide) rfl ((formatA_mask ..).trans (by decide))

theorem rnd (x : Reg) (nn : Byte) : Statement (.rnd x nn) :=
  of_row _ ⟨22, "CXNN", 0xF000, 0xC000⟩ (by decide) rfl ((formatI_mask_op ..).trans (by decide))

theorem drw (x y : Reg) (n : BitVec 4) : Statement (.drw x y n) :=
  of_row _ ⟨23, "DXYN", 0xF000, 0xD000⟩ (by decide) rfl ((formatR_mask_op ..).trans (by decide))

theorem skp (x : Reg) : Statement (.skp x) :=
  of_row _ ⟨24, "EX9E", 0xF0FF, 0xE09E⟩ (by decide) rfl ((formatI_mask ..).trans (by decide))

theorem sknp (x : Reg) : Statement (.sknp x) :=
  of_row _ ⟨25, "EXA1", 0xF0FF, 0xE0A1⟩ (by decide) rfl ((formatI_mask ..).trans (by decide))

theorem ldVxDT (x : Reg) : Statement (.ldVxDT x) :=
  of_row _ ⟨26, "FX07", 0xF0FF, 0xF007⟩ (by decide) rfl ((formatI_mask ..).trans (by decide))

theorem ldVxK (x : Reg) : Statement (.ldVxK x) :=
  of_row _ ⟨27, "FX0A", 0xF0FF, 0xF00A⟩ (by decide) rfl ((formatI_mask ..).trans (by decide))

theorem ldDTVx (x : Reg) : Statement (.ldDTVx x) :=
  of_row _ ⟨28, "FX15", 0xF0FF, 0xF015⟩ (by decide) rfl ((formatI_mask ..).trans (by decide))

theorem ldSTVx (x : Reg) : Statement (.ldSTVx x) :=
  of_row _ ⟨29, "FX18", 0xF0FF, 0xF018⟩ (by decide) rfl ((formatI_mask ..).trans (by decide))

theorem addI (x : Reg) : Statement (.addI x) :=
  of_row _ ⟨30, "FX1E", 0xF0FF, 0xF01E⟩ (by decide) rfl ((formatI_mask ..).trans (by decide))

theorem ldF (x : Reg) : Statement (.ldF x) :=
  of_row _ ⟨31, "FX29", 0xF0FF, 0xF029⟩ (by decide) rfl ((formatI_mask ..).trans (by decide))

theorem ldB (x : Reg) : Statement (.ldB x) :=
  of_row _ ⟨32, "FX33", 0xF0FF, 0xF033⟩ (by decide) rfl ((formatI_mask ..).trans (by decide))

theorem storeRegs (x : Reg) : Statement (.storeRegs x) :=
  of_row _ ⟨33, "FX55", 0xF0FF, 0xF055⟩ (by decide) rfl ((formatI_mask ..).trans (by decide))

theorem loadRegs (x : Reg) : Statement (.loadRegs x) :=
  of_row _ ⟨34, "FX65", 0xF0FF, 0xF065⟩ (by decide) rfl ((formatI_mask ..).trans (by decide))

end Sys2Proof.Laws.MatchesRow
end

