-- ==== Sys2Proof/Tests/Slice0.lean ====
section
/-! SUPPORT. Tests of the model on the vectors of 95_test_vectors.md (T1 to T7) and the examples in the rules, the smoke
tests of the well-formedness checks, and a witness for the hypotheses of every statement that has some. -/

namespace Sys2Proof.Tests

open Sys2Proof Sys2Proof.Machine

/-! ## Helpers -/

/-- Reset with some registers set. -/
def withRegs (regs : List (Reg × Byte)) : State := regs.foldl (fun s p => s.setV p.1 p.2) State.reset

/-- The state after a result, when there is one. -/
def nextOr (s : State) : Result → State
  | .next t => t
  | .fault _ => s
  | .refused _ => s

/-- The state after one step whose fetch finds the word. -/
def run (w : Nat) (s : State) : State := nextOr s (step (s.withFetchWord 16 w))

/-- The same with PC set first. -/
def runAt (pc : Word) (w : Nat) (s : State) : State := run w (s.setPc pc)

/-- `n` bytes read from an address. -/
def bytes (s : State) (a n : Nat) : List Byte := s.readBytes a n

/-- Some keys pressed. -/
def pressing (ks : List (Fin 16)) (s : State) : State := ks.foldl (fun s k => s.keySet k true) s

/-- The set pixels of a row. -/
def litColumns (s : State) (y : Fin 32) : List (Fin 64) := (List.finRange 64).filter fun x => s.fb.pixel y x

/-- How many pixels are set. -/
def litCount (s : State) : Nat := ((List.finRange 32).map fun y => (litColumns s y).length).sum

/-- Reset, and then a fault latched by a step. -/
def halted : State := (State.reset.takeFault .stackUnderflow (some 0x00EE)).setStepped true

/-- Reset with the driver's next move chosen. -/
def about (m : Move) : State := State.reset.setSchedule [m]

/-! ## Well-formedness refuses what is ill formed -/

/-- One illegal word of each family that has some (R43). -/
theorem test_wellformed_refuses_illegal_words :
    canonicalWord 0x0000 = false ∧ canonicalWord 0x01E0 = false ∧ canonicalWord 0x5011 = false ∧
    canonicalWord 0x8008 = false ∧ canonicalWord 0x800F = false ∧ canonicalWord 0x9AB1 = false ∧
    canonicalWord 0xE09F = false ∧ canonicalWord 0xF075 = false := by decide

theorem test_wellformed_accepts_legal_words :
    canonicalWord 0x00E0 = true ∧ canonicalWord 0x00EE = true ∧ canonicalWord 0x8F7E = true ∧
    canonicalWord 0xFF65 = true := by decide

/-- `PROG_MAX` is 3584 (R33). -/
theorem test_wellformed_image_must_fit :
    imageFits (List.replicate 3584 0) = true ∧ imageFits (List.replicate 3585 0) = false := by
  simp only [imageFits, List.length_replicate]; decide

/-- A stack depth of 0 is no depth (R5). -/
theorem test_wellformed_depth_is_positive :
    ({ Params.default with stackDepth := some 0 } : Params).wellFormed = false ∧
    ({ Params.default with stackDepth := some 1 } : Params).wellFormed = true ∧
    ({ Params.default with stackDepth := none } : Params).wellFormed = true := by decide

/-! ## Decoding: a word of every constructor, from R39, R42 and T1 -/

/-- One word of each format of R39, nibble by nibble: `00EE`, `1234`, `6A05`, `8AB4`, `D015`, `F265`. -/
theorem test_decode_formats_by_nibbles :
    decodeWord (0b0000#4 ++ (0b0000#4 ++ (0b1110#4 ++ 0b1110#4))) = .ok .ret ∧
    decodeWord (0b0001#4 ++ (0b0010#4 ++ (0b0011#4 ++ 0b0100#4))) = .ok (.jp 0x234) ∧
    decodeWord (0b0110#4 ++ (0b1010#4 ++ (0b0000#4 ++ 0b0101#4))) = .ok (.ldImm 10 0x05) ∧
    decodeWord (0b1000#4 ++ (0b1010#4 ++ (0b1011#4 ++ 0b0100#4))) = .ok (.addReg 10 11) ∧
    decodeWord (0b1101#4 ++ (0b0000#4 ++ (0b0001#4 ++ 0b0101#4))) = .ok (.drw 0 1 5) ∧
    decodeWord (0b1111#4 ++ (0b0010#4 ++ (0b0110#4 ++ 0b0101#4))) = .ok (.loadRegs 2) := by decide

theorem test_decode_flow :
    decodeTableWord 16 0x00EE = some .ret ∧ decodeTableWord 16 0x1234 = some (.jp 0x234) ∧
    decodeTableWord 16 0x220C = some (.call 0x20C) ∧ decodeTableWord 16 0x3155 = some (.seImm 1 0x55) ∧
    decodeTableWord 16 0x4210 = some (.sneImm 2 0x10) ∧ decodeTableWord 16 0x5340 = some (.seReg 3 4) ∧
    decodeTableWord 16 0x9340 = some (.sneReg 3 4) ∧ decodeTableWord 16 0xB300 = some (.jpV0 0x300) := by decide

theorem test_decode_alu :
    decodeTableWord 16 0x6005 = some (.ldImm 0 5) ∧ decodeTableWord 16 0x7F03 = some (.addImm 15 3) ∧
    decodeTableWord 16 0x8120 = some (.ldReg 1 2) ∧ decodeTableWord 16 0x8121 = some (.orReg 1 2) ∧
    decodeTableWord 16 0x8122 = some (.andReg 1 2) ∧ decodeTableWord 16 0x8123 = some (.xorReg 1 2) ∧
    decodeTableWord 16 0x8AB4 = some (.addReg 10 11) ∧ decodeTableWord 16 0x8125 = some (.subReg 1 2) ∧
    decodeTableWord 16 0x8126 = some (.shr 1 2) ∧ decodeTableWord 16 0x8127 = some (.subnReg 1 2) ∧
    decodeTableWord 16 0x8F7E = some (.shl 15 7) ∧ decodeTableWord 16 0xC1F0 = some (.rnd 1 0xF0) := by decide

theorem test_decode_index_memory_pixels :
    decodeTableWord 16 0xA2F0 = some (.ldI 0x2F0) ∧ decodeTableWord 16 0xF31E = some (.addI 3) ∧
    decodeTableWord 16 0xFA29 = some (.ldF 10) ∧ decodeTableWord 16 0xF033 = some (.ldB 0) ∧
    decodeTableWord 16 0xF155 = some (.storeRegs 1) ∧ decodeTableWord 16 0xF265 = some (.loadRegs 2) ∧
    decodeTableWord 16 0x00E0 = some .cls ∧ decodeTableWord 16 0xD015 = some (.drw 0 1 5) := by decide

theorem test_decode_keys_timers :
    decodeTableWord 16 0xE19E = some (.skp 1) ∧ decodeTableWord 16 0xE1A1 = some (.sknp 1) ∧
    decodeTableWord 16 0xF207 = some (.ldVxDT 2) ∧ decodeTableWord 16 0xF10A = some (.ldVxK 1) ∧
    decodeTableWord 16 0xF015 = some (.ldDTVx 0) ∧ decodeTableWord 16 0xF718 = some (.ldSTVx 7) := by decide

/-- The illegal rows of T1. -/
theorem test_decode_rejects :
    decodeTableWord 16 0xFFFF = none ∧ decodeTableWord 16 0x0000 = none ∧ decodeTableWord 16 0x00E1 = none ∧
    decodeTableWord 16 0x01E0 = none ∧ decodeTableWord 16 0x5011 = none ∧ decodeTableWord 16 0x9AB1 = none ∧
    decodeTableWord 16 0xF000 = none ∧ decodeBytes [0x12] = (.error .truncated, [0x12]) := by decide

/-! ## Control transfer (T2) -/

theorem test_jp : (run 0x1234 State.reset).pc = 0x234 ∧ (run 0x1201 State.reset).pc = 0x201 := by decide

theorem test_jp_to_itself : (run 0x1200 State.reset).pc = 0x200 := by decide

theorem test_call :
    (runAt 0x204 0x220C State.reset).stack = [0x206] ∧ (runAt 0x204 0x220C State.reset).pc = 0x20C := by decide

/-- F7: the seventeenth call. -/
theorem test_call_full :
    (run 0x2200 (State.reset.setStack (List.replicate 16 0x202))).fault = some ⟨.stackOverflow, some 0x2200, 0x200⟩ ∧
    (run 0x2200 (State.reset.setStack (List.replicate 16 0x202))).stack = List.replicate 16 0x202 := by decide

theorem test_ret :
    (runAt 0x300 0x00EE (State.reset.setStack [0x206, 0x20A])).stack = [0x206] ∧
    (runAt 0x300 0x00EE (State.reset.setStack [0x206, 0x20A])).pc = 0x20A := by decide

theorem test_ret_empty :
    (run 0x00EE State.reset).fault = some ⟨.stackUnderflow, some 0x00EE, 0x200⟩ ∧
    (run 0x00EE State.reset).pc = 0x200 := by decide

theorem test_seImm :
    (runAt 0x206 0x3100 State.reset).pc = 0x20A ∧ (runAt 0x206 0x3100 (withRegs [(1, 1)])).pc = 0x208 := by decide

/-- A skip past the end raises nothing (T2). -/
theorem test_seImm_past_the_end :
    (runAt 0xFFE 0x3000 State.reset).pc = 0x1002 ∧ (runAt 0xFFE 0x3000 State.reset).fault = none := by decide

theorem test_sneImm :
    (runAt 0x300 0x4211 (withRegs [(2, 0x10)])).pc = 0x304 ∧
    (runAt 0x300 0x4210 (withRegs [(2, 0x10)])).pc = 0x302 := by decide

theorem test_seReg :
    (run 0x5340 (withRegs [(3, 0x7F), (4, 0x7F)])).pc = 0x204 ∧
    (run 0x5340 (withRegs [(3, 0x7F), (4, 0x80)])).pc = 0x202 := by decide

theorem test_sneReg :
    (run 0x9340 (withRegs [(3, 1), (4, 2)])).pc = 0x204 ∧ (run 0x9AA0 (withRegs [(10, 9)])).pc = 0x202 := by decide

theorem test_jpV0 :
    (runAt 0x202 0xBFFF (withRegs [(0, 0xFF)])).pc = 0x10FE ∧ (run 0xB300 (withRegs [(3, 0x55)])).pc = 0x300 := by
  decide

/-! ## Registers and ALU (T3) -/

theorem test_ldImm :
    (run 0x6005 State.reset).getV 0 = 5 ∧ (run 0x6FAB State.reset).getV VF = 0xAB ∧
    (run 0x6005 State.reset).pc = 0x202 := by decide

theorem test_addImm :
    (run 0x7003 (withRegs [(0, 5), (15, 9)])).getV 0 = 8 ∧ (run 0x7001 (withRegs [(0, 0xFF), (15, 9)])).getV 0 = 0 ∧
    (run 0x7001 (withRegs [(0, 0xFF), (15, 9)])).getV VF = 9 := by decide

theorem test_ldReg :
    (run 0x8010 (withRegs [(1, 0xAB)])).getV 0 = 0xAB ∧ (run 0x8010 (withRegs [(1, 0xAB)])).getV 1 = 0xAB := by decide

theorem test_orReg :
    (run 0x8011 (withRegs [(0, 0xF0), (1, 0x0F), (15, 1)])).getV 0 = 0xFF ∧
    (run 0x8011 (withRegs [(0, 0xF0), (1, 0x0F), (15, 1)])).getV VF = 1 := by decide

theorem test_andReg :
    (run 0x8012 (withRegs [(0, 0xF0), (1, 0x3C), (15, 1)])).getV 0 = 0x30 ∧
    (run 0x8012 (withRegs [(0, 0xF0), (1, 0x3C), (15, 1)])).getV VF = 1 := by decide

theorem test_xorReg :
    (run 0x8013 (withRegs [(0, 0xF0), (1, 0x3C), (15, 1)])).getV 0 = 0xCC ∧
    (run 0x8443 (withRegs [(4, 0x5A), (15, 1)])).getV 4 = 0 := by decide

theorem test_addReg :
    (run 0x8014 (withRegs [(0, 0xC8), (1, 0x64)])).getV 0 = 0x2C ∧
    (run 0x8014 (withRegs [(0, 0xC8), (1, 0x64)])).getV VF = 1 ∧
    (run 0x8014 (withRegs [(0, 0xFF), (15, 1)])).getV VF = 0 := by decide

/-- D9: with x = F the flag wins. -/
theorem test_addReg_VF :
    (run 0x8F14 (withRegs [(15, 0xFF), (1, 2)])).getV VF = 1 ∧ (run 0x80F4 (withRegs [(0, 0x10), (15, 1)])).getV 0 = 0x11 ∧
    (run 0x80F4 (withRegs [(0, 0x10), (15, 1)])).getV VF = 0 := by decide

theorem test_subReg :
    (run 0x8015 (withRegs [(0, 0x2C), (1, 0x64), (15, 1)])).getV 0 = 0xC8 ∧
    (run 0x8015 (withRegs [(0, 0x2C), (1, 0x64), (15, 1)])).getV VF = 0 ∧
    (run 0x8015 (withRegs [(0, 0x50), (1, 0x50)])).getV VF = 1 := by decide

theorem test_shr :
    (run 0x8016 (withRegs [(0, 5), (1, 0xAA)])).getV 0 = 2 ∧ (run 0x8016 (withRegs [(0, 5), (1, 0xAA)])).getV VF = 1 ∧
    (run 0x8016 (withRegs [(0, 5), (1, 0xAA)])).getV 1 = 0xAA ∧ (run 0x8F16 (withRegs [(15, 3)])).getV VF = 0 := by
  decide

theorem test_subnReg :
    (run 0x8017 (withRegs [(0, 0xC8), (1, 0x64), (15, 1)])).getV 0 = 0x9C ∧
    (run 0x8017 (withRegs [(0, 0xC8), (1, 0x64), (15, 1)])).getV VF = 0 ∧
    (run 0x8F17 (withRegs [(15, 3), (1, 5)])).getV VF = 1 := by decide

theorem test_shl :
    (run 0x801E (withRegs [(0, 0x9C), (1, 0xAA)])).getV 0 = 0x38 ∧
    (run 0x801E (withRegs [(0, 0x9C), (1, 0xAA)])).getV VF = 1 ∧ (run 0x8F1E (withRegs [(15, 0x81)])).getV VF = 2 := by
  decide

/-- `C00F` with the draw 0xA7 (T3). -/
theorem test_rnd_given_draw :
    (State.reset.randomLoad 0 0x0F 0xA7).getV 0 = 0x07 ∧ (State.reset.randomLoad 1 0xF0 0x5A).getV 1 = 0x50 := by decide

/-- The draw is the input's first sample, whatever it is. -/
theorem test_rnd : (run 0xC00F State.reset).getV 0 = Config.rnd 0 &&& 0x0F := by rfl

/-! ## Index register and memory (T4) -/

theorem test_ldI : (run 0xA2F0 State.reset).I = 0x2F0 ∧ (run 0xAFFF (State.reset.setI 0xFFFF)).I = 0x0FFF := by decide

theorem test_addI :
    (run 0xF01E ((withRegs [(0, 0xFF)]).setI 0x0FFF)).I = 0x10FE ∧
    (run 0xF01E ((withRegs [(0, 1)]).setI 0xFFFF)).I = 0 ∧
    (run 0xF01E ((withRegs [(0, 1), (15, 7)]).setI 0xFFFF)).getV VF = 7 := by decide

theorem test_ldF :
    (run 0xFA29 (withRegs [(10, 10)])).I = 0x32 ∧ (run 0xF029 (withRegs [(0, 0xFF)])).I = 0x04FB := by decide

theorem test_ldB :
    bytes (run 0xF033 ((withRegs [(0, 0xEA)]).setI 0x300)) 0x300 3 = [2, 3, 4] ∧
    bytes (run 0xF033 ((withRegs [(0, 0x63)]).setI 0xFFD)) 0xFFD 3 = [0, 9, 9] := by decide

/-- All or nothing (D6). -/
theorem test_ldB_out_of_range :
    (run 0xF033 ((withRegs [(0, 0xFF)]).setI 0xFFE)).fault = some ⟨.memOutOfBounds 0x1000, some 0xF033, 0x200⟩ ∧
    bytes (run 0xF033 ((withRegs [(0, 0xFF)]).setI 0xFFE)) 0xFFE 2 = [0, 0] := by decide

theorem test_storeRegs :
    bytes (run 0xF155 ((withRegs [(0, 0x11), (1, 0x22), (2, 0x33)]).setI 0x2F0)) 0x2F0 3 = [0x11, 0x22, 0] ∧
    (run 0xF155 ((withRegs [(0, 0x11), (1, 0x22)]).setI 0x2F0)).I = 0x2F0 := by decide

theorem test_loadRegs :
    (run 0xF265 (((withRegs [(3, 0x99)]).setI 0x300).writeBytes 0x300 [2, 3, 4, 5])).V.toList.take 4 =
      [2, 3, 4, 0x99] ∧ (run 0xF065 State.reset).getV 0 = 0xF0 := by decide

theorem test_loadRegs_out_of_range :
    (run 0xFF65 (State.reset.setI 0xFF1)).fault = some ⟨.memOutOfBounds 0x1000, some 0xFF65, 0x200⟩ ∧
    (run 0xFF65 (State.reset.setI 0xFF0)).fault = none := by decide

/-! ## Framebuffer (T5) -/

theorem test_cls : litCount (run 0x00E0 (State.reset.setFb (Framebuffer.clear.toggle 3 5))) = 0 := by decide

/-- S4: columns wrap; D10: VF is read as a coordinate before it is written. -/
theorem test_drw_wraps :
    litColumns (run 0xD011 (((withRegs [(0, 60)]).setI 0x300).writeBytes 0x300 [0xFF])) 0 =
      [0, 1, 2, 3, 60, 61, 62, 63] ∧
    litColumns (run 0xDF01 (((withRegs [(15, 5)]).setI 0x300).writeBytes 0x300 [0x80])) 0 = [5] := by decide

/-- A set pixel turned off is a collision, one turned on is not. -/
theorem test_drw_collision :
    let s := ((State.reset.setI 0x300).writeBytes 0x300 [0xC0]).setFb (Framebuffer.clear.toggle 0 0)
    (run 0xD011 s).getV VF = 1 ∧ litColumns (run 0xD011 s) 0 = [1] ∧ (run 0xD010 (s.setI 0x2000)).fault = none := by
  decide

/-! ## Keypad and timers (T6) -/

theorem test_skp :
    (runAt 0x208 0xE19E (pressing [7] (withRegs [(1, 7)]))).pc = 0x20C ∧
    (runAt 0x208 0xE19E (withRegs [(1, 7)])).pc = 0x20A := by decide

theorem test_sknp :
    (runAt 0x208 0xE1A1 (pressing [7] (withRegs [(1, 7)]))).pc = 0x20A ∧
    (runAt 0x208 0xE1A1 (withRegs [(1, 7)])).pc = 0x20C := by decide

theorem test_skp_bad_key :
    (runAt 0x202 0xE09E (withRegs [(0, 0x10)])).fault = some ⟨.badKeyIndex 0x10, some 0xE09E, 0x202⟩ ∧
    (runAt 0x202 0xE0A1 (withRegs [(0, 0xFF)])).fault = some ⟨.badKeyIndex 0xFF, some 0xE0A1, 0x202⟩ := by decide

theorem test_ldVxK :
    (runAt 0x204 0xF10A (withRegs [(1, 9)])).pc = 0x204 ∧ (runAt 0x204 0xF10A (withRegs [(1, 9)])).getV 1 = 9 ∧
    (runAt 0x204 0xF10A (pressing [11, 7] State.reset)).getV 1 = 7 ∧
    (runAt 0x204 0xF10A (pressing [11, 7] State.reset)).pc = 0x206 := by decide

theorem test_timer_transfers :
    (run 0xF015 (withRegs [(0, 3)])).DT = 3 ∧ (run 0xF207 (State.reset.setDT 1)).getV 2 = 1 ∧
    (run 0xF018 (withRegs [(0, 2)])).ST = 2 ∧ (run 0xF018 (withRegs [(0, 2)])).tone = true ∧
    (run 0xF018 (State.reset.setST 5)).tone = false := by decide

theorem test_tick :
    ((State.reset.setDT 3).setST 1).tick.DT = 2 ∧ ((State.reset.setDT 3).setST 1).tick.ST = 0 ∧
    State.reset.tick.DT = 0 := by decide

/-! ## Faults, halt and reset (T7) -/

theorem test_reset_vector :
    State.reset.pc = 0x200 ∧ bytes State.reset 0 5 = [0xF0, 0x90, 0x90, 0x90, 0xF0] ∧
    State.reset.readByte 0x4F = 0x80 ∧ State.reset.readByte 0x50 = 0 ∧ State.reset.readByte 0x200 = 0 := by decide

/-- F1. -/
theorem test_step_from_reset_faults :
    (nextOr halted (step State.reset)).fault = some ⟨.unknownInstruction, some 0x0000, 0x200⟩ := by decide

/-- F11, F5: a fetch fault has no opcode. -/
theorem test_fetch_faults :
    (nextOr halted (step (State.reset.setPc 0xFFF))).fault = some ⟨.memOutOfBounds 0x1000, none, 0xFFF⟩ ∧
    (nextOr halted (step (State.reset.setPc 0x10FE))).fault = some ⟨.memOutOfBounds 0x10FE, none, 0x10FE⟩ := by decide

/-- F8, F9: halted, the step does nothing, the keypad and the timers go on. -/
theorem test_halted :
    step halted = .next halted ∧ (halted.keySet 1 true).key[1] = true ∧ (halted.setDT 2).tick.DT = 1 :=
  ⟨rfl, by decide⟩

/-- F2, F10: reset and load, with a key change and a tick between; reset clears the program and the latch. -/
theorem test_reset_then_load :
    let s := halted.setSchedule [.reset, .keySet 4 true, .tick, .load [0x00, 0xEE], .step]
    (nextOr halted (runMoves 4 s)).wordAtPc = 0x00EE ∧ (nextOr halted (runMoves 4 s)).key[4] = true ∧
    (nextOr halted (runMoves 5 s)).fault = some ⟨.stackUnderflow, some 0x00EE, 0x200⟩ ∧
    ((halted.writeBytes 0x200 [0xAF]).resetBlock).readByte 0x200 = 0 := by decide

/-- U18: a load after a step is refused. -/
theorem test_load_after_step :
    runMoves 2 (State.reset.setSchedule [.step, .load [0x12, 0x00]]) = .refused .loadAfterStep := rfl

/-- The codes of R93. -/
theorem test_cause_codes :
    [Cause.unknownInstruction, .stackUnderflow, .memOutOfBounds 0, .badKeyIndex 16, .stackOverflow].map Cause.code =
      [1, 2, 3, 4, 5] := by decide

/-! ## Witnesses: for every statement with hypotheses, a state and operands that meet them, each clause at a boundary -/

theorem witness_encode_of_decode : decodeWord 0x8AB4 = .ok (.addReg 10 11) := by decide

theorem witness_selection :
    canonicalWord 0x8AB4 = true ∧ decodeWord 0x8AB4 = .ok (.addReg 10 11) ∧ canonicalWord 0x8008 = false := by decide

/-- A legal word in the last place that a fetch reaches. -/
theorem witness_step_runs :
    let s := (State.reset.setPc 0xFFE).writeBytes 0xFFE [0x60, 0x05]
    s.nextMove = .step ∧ s.fault = none ∧ s.pc.toNat + 1 < 4096 ∧
      decodeWord (s.readByte s.pc.toNat ++ s.readByte (s.pc.toNat + 1)) = .ok (.ldImm 0 5) := by decide

theorem witness_illegal_word :
    let s := State.reset.setPc 0xFFE
    s.nextMove = .step ∧ s.fault = none ∧ s.pc.toNat + 1 < 4096 ∧
      (0x0000 : Word) = s.readByte s.pc.toNat ++ s.readByte (s.pc.toNat + 1) ∧ canonicalWord 0x0000 = false := by decide

theorem witness_fetch_out_of_range :
    (∀ pc : Word, (State.reset.setPc pc).nextMove = .step ∧ (State.reset.setPc pc).fault = none) ∧
      0xFFF ≤ (State.reset.setPc 0xFFF).pc.toNat ∧ 0xFFF ≤ (State.reset.setPc 0x1000).pc.toNat :=
  ⟨fun _ => ⟨rfl, rfl⟩, by decide⟩

theorem witness_halted_step : halted.nextMove = .step ∧ halted.fault ≠ none := by decide

/-- A fetch fault and a fault of an instruction. -/
theorem witness_faulting_step :
    (∃ t r, (State.reset.setPc 0xFFF).nextMove = .step ∧ (State.reset.setPc 0xFFF).fault = none ∧
      step (State.reset.setPc 0xFFF) = .next t ∧ t.fault = some r) ∧
    ∃ t r, (State.reset.withFetchWord 16 0x00EE).nextMove = .step ∧ (State.reset.withFetchWord 16 0x00EE).fault = none ∧
      step (State.reset.withFetchWord 16 0x00EE) = .next t ∧ t.fault = some r :=
  ⟨⟨_, _, rfl, rfl, rfl, rfl⟩, _, _, rfl, rfl, rfl, rfl⟩

/-- The moves that are refused: an image one byte too long, and any image after a step. -/
theorem witness_refused_moves :
    let image := List.replicate 3585 (0 : Byte)
    ((about (.load image)).nextMove = .load image ∧ (about (.load image)).stepped = false ∧ 3584 < image.length) ∧
    (about (.load [])).nextMove = .load [] ∧ ((about (.load [])).setStepped true).stepped = true :=
  ⟨⟨rfl, rfl, by simp only [List.length_replicate]; decide⟩, rfl, rfl⟩

theorem witness_invariant_reset : State.reset.Inv :=
  ⟨rfl, fun _ _ => Nat.zero_le _, fun _ h => (List.not_mem_nil h).elim, by decide, fun _ h => (nomatch h),
    fun h => absurd rfl h, rfl⟩

theorem witness_step_keeps_invariant : ∃ t, State.reset.Inv ∧ step State.reset = .next t :=
  ⟨_, witness_invariant_reset, rfl⟩

theorem witness_legal_parameters :
    Params.default.wellFormed = true ∧ ({ Params.default with stackDepth := none } : Params).wellFormed = true := by decide

theorem witness_latched_fault :
    (∃ r t, halted.fault = some r ∧ step halted = .next t) ∧
    ∃ r t, (halted.setSchedule [.reset]).fault = some r ∧ step (halted.setSchedule [.reset]) = .next t :=
  ⟨⟨_, _, rfl, rfl⟩, _, _, rfl, rfl⟩

/-- The store may end at the last byte of memory. -/
theorem witness_store_seen_by_fetch :
    (let s := (State.reset.setPc 0xFEE).setI 0xFF0
     s.mem.wf s.params = true ∧ s.I.toNat = s.pc.toNat + 2 ∧ 1 ≤ (15 : Reg).val ∧ s.I.toNat + (15 : Reg).val < 4096) ∧
    let s := State.reset.setI 0x202
    s.mem.wf s.params = true ∧ s.I.toNat = s.pc.toNat + 2 ∧ 1 ≤ (1 : Reg).val ∧ s.I.toNat + (1 : Reg).val < 4096 := by
  decide

theorem witness_self_jump : State.reset.pc.toNat = (0x200 : BitVec 12).toNat := by decide

/-- One entry free, and the unbounded stack. -/
theorem witness_call :
    (let s := State.reset.setStack (List.replicate 15 0x202)
     s.params.stackDepth ≠ some s.stack.length) ∧
    (State.resetWith { Params.default with stackDepth := none }).params.stackDepth ≠ some 0 := by decide

theorem witness_return : (State.reset.setStack [0x206, 0x20A]).stack = [0x206] ++ [0x20A] := rfl

theorem witness_stack_faults :
    (let s := State.reset.setStack (List.replicate 16 0x202)
     s.params.stackDepth = some s.stack.length) ∧ State.reset.stack = [] := by decide

theorem witness_return_after_call :
    ∃ t u : State, State.reset.params.stackDepth ≠ some State.reset.stack.length ∧
      exec (.call 0x300) State.reset = .next t ∧ u.stack = t.stack :=
  ⟨_, _, by decide, rfl, rfl⟩

/-- The destination of a flag writer may be VF or another register. -/
theorem witness_flag_destination : (0 : Reg) ≠ VF ∧ (15 : Reg) = VF := by decide

theorem witness_random_mask_bit : (0x0F : Byte).getLsbD 4 = false := by decide

/-- VF changed by a flag writer, and by a load of VF; a flag writer that faults. -/
theorem witness_flag_writers :
    (∃ t, exec (.addReg 0 1) (withRegs [(0, 0xFF), (1, 1)]) = .next t ∧
      t.getV VF ≠ (withRegs [(0, 0xFF), (1, 1)]).getV VF ∧ writesFlag (.addReg 0 1) = true ∧
      destinationIsVF (.addReg 0 1) = false) ∧
    (∃ t, exec (.ldImm 15 7) State.reset = .next t ∧ t.getV VF ≠ State.reset.getV VF) ∧
    ∃ t, exec (.drw 0 1 2) (State.reset.setI 0xFFF) = .next t ∧ writesFlag (.drw 0 1 2) = true ∧
      destinationIsVF (.drw 0 1 2) = false :=
  ⟨⟨_, rfl, by decide⟩, ⟨_, rfl, by decide⟩, _, rfl, by decide⟩

/-- Three bytes that end at the last byte of memory. -/
theorem witness_decimal_digits :
    (State.reset.setI 0xFFD).mem.wf (State.reset.setI 0xFFD).params = true ∧ (State.reset.setI 0xFFD).I.toNat + 2 < 4096 := by
  decide

theorem witness_store_load :
    (let s := State.reset.setI 0xFF0
     s.mem.wf s.params = true ∧ s.I.toNat + (15 : Reg).val < 4096) ∧
    (State.reset.setI 0xFFF).I.toNat + (0 : Reg).val < 4096 ∧ (0 : Reg) ≤ 15 := by decide

theorem witness_round_trip :
    ∃ t u : State, State.reset.mem.wf State.reset.params = true ∧ State.reset.I.toNat + (2 : Reg).val < 4096 ∧
      exec (.storeRegs 2) State.reset = .next t ∧ u.mem = t.mem ∧ u.params = t.params ∧ u.I = t.I ∧
      (2 : Reg) ≤ 2 ∧ (2 : Reg) < 3 :=
  ⟨_, _, by decide, by decide, rfl, rfl, rfl, rfl, by decide⟩

/-- Each range one byte too long, and a base beyond memory. -/
theorem witness_out_of_range :
    4096 ≤ (State.reset.setI 0xFFE).I.toNat + 2 ∧ 4096 ≤ (State.reset.setI 0xFFF).I.toNat + (1 : Reg).val ∧
    4096 ≤ (State.reset.setI 0x1000).I.toNat + (0 : Reg).val ∧ 0 < (2 : BitVec 4).toNat ∧
    4096 ≤ (State.reset.setI 0xFFF).I.toNat + (2 : BitVec 4).toNat - 1 := by decide

/-- A covered pixel that is set, one that is not, and a pixel that is not covered. -/
theorem witness_draw :
    [(0x80 : Byte)].length ≤ 15 ∧ spriteCovers 63 31 [0x80] 31 63 ∧ (Framebuffer.clear.toggle 31 63).pixel 31 63 = true ∧
    Framebuffer.clear.pixel 31 63 = false ∧ ¬ spriteCovers 63 31 [] 31 63 :=
  ⟨by decide, ⟨0, by decide, 0, by decide⟩, by decide, by decide, fun ⟨_, h, _⟩ => absurd h (Nat.not_lt_zero _)⟩

/-- The last row at the last byte; no rows, from anywhere. -/
theorem witness_draw_in_range :
    ((1 : BitVec 4).toNat = 0 ∨ (State.reset.setI 0xFFF).I.toNat + (1 : BitVec 4).toNat - 1 < 4096) ∧
    ((0 : BitVec 4).toNat = 0 ∨ (State.reset.setI 0x2000).I.toNat + (0 : BitVec 4).toNat - 1 < 4096) := by decide

/-- Both outcomes of the collision test of a draw in range. -/
theorem witness_draw_collision :
    let s := State.reset.writeBytes 0x300 [0x80]
    let u := (s.setI 0x300).setFb (Framebuffer.clear.toggle 0 0)
    (∃ r c, spriteCovers (u.getV 0) (u.getV 1) (u.readBytes u.base 1) r c ∧ u.fb.pixel r c = true) ∧
    ¬ ∃ r c, spriteCovers (u.getV 0) (u.getV 1) (u.readBytes u.base 0) r c ∧ u.fb.pixel r c = true :=
  ⟨⟨0, 0, ⟨0, by decide, 0, by decide⟩, by decide⟩, fun ⟨_, _, ⟨_, h, _⟩, _⟩ => absurd h (Nat.not_lt_zero _)⟩

theorem witness_keys :
    ((withRegs [(0, 15)]).getV 0).toNat < 16 ∧ 15 < ((withRegs [(0, 16)]).getV 0).toNat := by decide

theorem witness_wait_for_key :
    (∀ k : Fin 16, State.reset.key[k] = false) ∧
    (let s := pressing [11, 7] State.reset
     s.key[(7 : Fin 16)] = true ∧ ∀ j : Fin 16, j < 7 → s.key[j] = false) ∧
    (let s := pressing [0] State.reset
     s.key[(0 : Fin 16)] = true ∧ ∀ j : Fin 16, j < 0 → s.key[j] = false) := by decide

theorem witness_moves :
    (about .tick).nextMove = .tick ∧ (about (.keySet 15 true)).nextMove = .keySet 15 true ∧
    (about .reset).nextMove = .reset := by decide

/-- The longest program that fits, loaded right after reset, and after a key change and a tick. -/
theorem witness_boot :
    let image : List Byte := 0x12 :: 0x00 :: List.replicate 3582 0
    let between : List Move := [.keySet 4 true, .tick]
    (halted.setSchedule [.reset, .load image]).schedule = .reset :: ([] ++ .load image :: []) ∧
    (halted.setSchedule (.reset :: (between ++ [.load image]))).schedule = .reset :: (between ++ .load image :: []) ∧
    (∀ m ∈ between, m = .tick ∨ ∃ k b, m = .keySet k b) ∧ (List.replicate 3582 (0 : Byte)).length + 2 ≤ 3584 :=
  ⟨rfl, rfl, fun m hm => by
    rcases List.mem_cons.1 hm with rfl | hm
    · exact .inr ⟨4, true, rfl⟩
    · exact .inl (List.mem_singleton.1 hm), by simp only [List.length_replicate]; decide⟩

/-- The tone goes on by `FX18` and off by `tick`. -/
theorem witness_tone :
    (∃ t, step ((withRegs [(0, 1)]).withFetchWord 16 0xF018) = .next t ∧
      t.tone ≠ ((withRegs [(0, 1)]).withFetchWord 16 0xF018).tone) ∧
    ∃ t, step ((about .tick).setST 1) = .next t ∧ t.tone ≠ ((about .tick).setST 1).tone :=
  ⟨⟨_, rfl, by decide⟩, _, rfl, by decide⟩

/-- One instruction that completes and one that faults, from a canonical memory; neither writes PC beyond the advance. -/
theorem witness_matrix :
    State.reset.mem.wf State.reset.params = true ∧ (∃ t, exec (.ldImm 0 5) State.reset = .next t) ∧
    (∃ t, exec (.storeRegs 1) (State.reset.setI 0xFFF) = .next t) ∧ writesPc (.ldImm 0 5) = false ∧
    writesPc (.storeRegs 1) = false := ⟨rfl, ⟨_, rfl⟩, ⟨_, rfl⟩, rfl, rfl⟩

theorem witness_pc_kept_by_moves :
    (∃ t, step (about .tick) = .next t ∧ (about .tick).nextMove = .tick) ∧
    ∃ t, step (about (.keySet 4 true)) = .next t ∧ (about (.keySet 4 true)).nextMove = .keySet 4 true :=
  ⟨⟨_, rfl, rfl⟩, _, rfl, rfl⟩

/-- The last clause is met by an instruction that reads the keypad. -/
theorem witness_reads_neither_sound_nor_keys :
    (∀ x, (Instr.ldImm 0 5) ≠ .ldSTVx x) ∧ readsKeys (.ldImm 0 5) = false ∧
    ∃ t, exec (.ldVxK 0) (pressing [15] State.reset) = .next t := ⟨fun _ h => (nomatch h), rfl, _, rfl⟩

theorem witness_keys_and_pixels_change :
    (∃ t, step (about (.keySet 4 true)) = .next t ∧ t.key ≠ (about (.keySet 4 true)).key) ∧
    ∃ t, step ((State.reset.setFb (Framebuffer.clear.toggle 0 0)).withFetchWord 16 0x00E0) = .next t ∧
      t.fb ≠ ((State.reset.setFb (Framebuffer.clear.toggle 0 0)).withFetchWord 16 0x00E0).fb :=
  ⟨⟨_, rfl, by decide⟩, _, rfl, by decide⟩

/-- An image of the greatest length, and one byte more, before a step; and a load after one. -/
theorem witness_load :
    let long := List.replicate 3584 (0 : Byte)
    let tooLong := List.replicate 3585 (0 : Byte)
    (about (.load long)).mem.wf (about (.load long)).params = true ∧ (about (.load long)).nextMove = .load long ∧
    (about (.load long)).stepped = false ∧ long.length ≤ 3584 ∧ (about (.load tooLong)).nextMove = .load tooLong ∧
    3584 < tooLong.length ∧ ((about (.load long)).setStepped true).stepped = true :=
  ⟨rfl, rfl, rfl, by simp only [List.length_replicate]; decide, rfl, by simp only [List.length_replicate]; decide, rfl⟩

end Sys2Proof.Tests
end

section
/-! PROOFS. The invariant of the machine (00_scope.md R5, 10_state.md R11, R13, R18): what a completed instruction does to
the parts the invariant speaks of, each move keeps it, and the reset state meets it. -/

namespace Sys2Proof.Machine

/-! ## What a completed instruction leaves -/

/-- An instruction that completes latches nothing (R53). -/
@[simp] theorem completed_fault (i : Instr) (s : State) : (completed i s).fault = s.fault := by
  cases i with
  | ldVxK x => simp only [completed]; split <;> rfl
  | _ => rfl

@[simp] theorem completed_params (i : Instr) (s : State) : (completed i s).params = s.params := by
  cases i with
  | ldVxK x => simp only [completed]; split <;> rfl
  | _ => rfl

/-- Only `FX33` and `FX55` store, and their range was checked: memory stays canonical (R18, R25). -/
theorem completed_mem_wf {i : Instr} {s : State} (hc : completes i s) (hw : s.mem.wf s.params = true) :
    (completed i s).mem.wf s.params = true := by
  cases i with
  | ldB x => exact writeBytes_wf (s := s.setPc (s.pc + 2)) hw _ _ hc
  | storeRegs x =>
    exact writeBytes_wf (s := s.setPc (s.pc + 2)) hw _ _ (by rw [length_regsUpTo]; exact hc)
  | ldVxK x => simp only [completed]; split <;> exact hw
  | _ => exact hw

/-- Only `00EE` and `2NNN` change the call stack (R13). -/
theorem completed_stack_cases (i : Instr) (s : State) :
    (completed i s).stack = s.stack ∨
    (i = .ret ∧ (completed i s).stack = s.stack.dropLast) ∨
    (∃ nnn, i = .call nnn ∧ (completed i s).stack = s.stack ++ [s.pc + 2]) := by
  cases i with
  | ret => exact .inr (.inl ⟨rfl, rfl⟩)
  | call nnn => exact .inr (.inr ⟨nnn, rfl, rfl⟩)
  | ldVxK x => simp only [completed]; split <;> exact .inl rfl
  | _ => exact .inl rfl

/-- Where PC can be after an instruction completes (R11): at it, after it, after the next one, at an absolute address, at
one with V0 added, or at the newest stack entry. -/
theorem completed_pc_cases (i : Instr) (s : State) :
    (completed i s).pc ∈ [s.pc, s.pc + 2, s.pc + 4] ∨
    (∃ nnn, (completed i s).pc = addressWord nnn) ∨
    (∃ nnn, (completed i s).pc = addressWord nnn + byteWord (s.getV 0)) ∨
    (completed i s).pc = s.top.getD 0 := by
  have advanced : s.pc + 2 ∈ [s.pc, s.pc + 2, s.pc + 4] := by simp
  have skipped (c : Bool) : (if c then s.pc + 4 else s.pc + 2) ∈ [s.pc, s.pc + 2, s.pc + 4] := by cases c <;> simp
  cases i with
  | ret => exact .inr (.inr (.inr rfl))
  | jp nnn | call nnn => exact .inr (.inl ⟨nnn, rfl⟩)
  | jpV0 nnn => exact .inr (.inr (.inl ⟨nnn, rfl⟩))
  | seImm x nn | sneImm x nn | seReg x y | sneReg x y | skp x => exact .inl (skipped _)
  | sknp x => exact .inl (by simp only [completed, State.setPc_pc]; split <;> simp)
  | ldVxK x =>
    simp only [completed]
    split
    · exact .inl List.mem_cons_self
    · exact .inl advanced
  | _ => exact .inl advanced

/-! ## The parts of the invariant across an instruction -/

/-- The newest entry, and the 0 that stands for none, is an advanced PC value. -/
theorem top_getD_le {s : State} {b : Nat} (he : ∀ w ∈ s.stack, w.toNat ≤ b) : (s.top.getD 0).toNat ≤ b := by
  cases ht : s.top with
  | none => exact Nat.zero_le b
  | some w => exact he w (List.mem_of_getLast? ht)

/-- A stack within its depth that is not full has room for one more entry (R57, D3). -/
theorem length_lt_of_not_stackFull {s : State} {d : Nat} (hw : s.stackWithin) (hf : s.stackFull = false)
    (hd : s.params.stackDepth = some d) : s.stack.length < d := by
  have ne : d ≠ s.stack.length := by simpa [State.stackFull, hd] using hf
  have le := hw d hd
  omega

/-- The greatest PC is that of `BNNN`: 0xFFF + 0xFF (R62). -/
theorem completed_pc_le {i : Instr} {s : State} (hp : s.fetchable) (he : ∀ w ∈ s.stack, w.toNat ≤ 0x1000) :
    (completed i s).pc.toNat ≤ 0x10FE := by
  have hpc : s.pc.toNat + 1 < 4096 := hp
  rcases completed_pc_cases i s with h | ⟨nnn, h⟩ | ⟨nnn, h⟩ | h
  · simp only [List.mem_cons, List.not_mem_nil, or_false] at h
    rcases h with h | h | h <;> rw [h] <;> bv_omega
  · rw [h, addressWord_toNat]
    omega
  · rw [h, BitVec.toNat_add, addressWord_toNat, byteWord_toNat]
    omega
  · rw [h]
    exact (top_getD_le he).trans (by decide)

theorem completed_stackWithin {i : Instr} {s : State} (hc : completes i s) (hw : s.stackWithin) :
    (completed i s).stackWithin := by
  intro d hd
  rw [completed_params] at hd
  rcases completed_stack_cases i s with h | ⟨-, h⟩ | ⟨nnn, rfl, h⟩ <;> rw [h]
  · exact hw d hd
  · exact (List.dropLast_sublist _).length_le.trans (hw d hd)
  · rw [List.length_append]
    exact length_lt_of_not_stackFull hw hc hd

/-- A call pushes an advanced PC, at most 0x1000 as the fetch was in range (R48, R57). -/
theorem completed_entries_le {i : Instr} {s : State} (hp : s.fetchable) (he : ∀ w ∈ s.stack, w.toNat ≤ 0x1000) :
    ∀ w ∈ (completed i s).stack, w.toNat ≤ 0x1000 := by
  have hpc : s.pc.toNat + 1 < 4096 := hp
  intro w hw
  rcases completed_stack_cases i s with h | ⟨-, h⟩ | ⟨nnn, -, h⟩ <;> rw [h] at hw
  · exact he w hw
  · exact he w (List.mem_of_mem_dropLast hw)
  · rcases List.mem_append.1 hw with hw | hw
    · exact he w hw
    · rw [List.mem_singleton.1 hw]
      bv_omega

/-! ## The invariant across each move -/

namespace State.Inv

/-- The invariant speaks of six parts; `stepped` may be set. -/
theorem of_same_parts {s t : State} (h : s.Inv) (mem : t.mem = s.mem) (params : t.params = s.params)
    (stack : t.stack = s.stack) (pc : t.pc = s.pc) (fault : t.fault = s.fault)
    (stepped : s.stepped = true → t.stepped = true) : t.Inv where
  memory := by rw [mem, params]; exact h.memory
  depth d hd := by rw [stack]; exact h.depth d (params ▸ hd)
  entries := by rw [stack]; exact h.entries
  pcRange := by rw [pc]; exact h.pcRange
  record := by rw [fault, pc]; exact h.record
  latched hf := stepped (h.latched (fault ▸ hf))
  legal := by rw [params]; exact h.legal

theorem of_resetWith {p : Params} (hp : p.wellFormed = true) : (State.resetWith p).Inv where
  memory := rfl
  depth _ _ := Nat.zero_le _
  entries _ hw := (List.not_mem_nil hw).elim
  pcRange := (by decide : (0x200 : Word).toNat ≤ 0x10FE)
  record _ hr := nomatch hr
  latched hf := absurd rfl hf
  legal := hp

variable {s : State}

theorem popMove (h : s.Inv) : s.popMove.Inv :=
  h.of_same_parts rfl rfl rfl rfl rfl fun hs => by simp [hs]

theorem tick (h : s.Inv) : s.tick.Inv := h.of_same_parts rfl rfl rfl rfl rfl id

theorem keySet (h : s.Inv) (k : Fin 16) (b : Bool) : (s.keySet k b).Inv := h.of_same_parts rfl rfl rfl rfl rfl id

theorem resetBlock (h : s.Inv) : s.resetBlock.Inv :=
  (of_resetWith h.legal).of_same_parts rfl rfl rfl rfl rfl id

/-- A store in range, as `load` makes one (R33). -/
theorem writeBytes (h : s.Inv) {a : Nat} {vs : List Byte} (hs : a + vs.length ≤ 4096) : (s.writeBytes a vs).Inv :=
  { h with memory := writeBytes_wf h.memory a vs hs }

/-- A fault taken in a step: the record names PC, which stays (R53, R100). -/
theorem takeFault (h : s.Inv) (hs : s.stepped = true) (c : Cause) (w : Option Word) : (s.takeFault c w).Inv :=
  { h with
    record := fun _ hr => by cases hr; rfl
    latched := fun _ => hs }

theorem completed {i : Instr} (h : s.Inv) (hf : s.fault = none) (hp : s.fetchable) (hc : completes i s) :
    (Machine.completed i s).Inv where
  memory := by rw [completed_params]; exact completed_mem_wf hc h.memory
  depth := completed_stackWithin hc h.depth
  entries := completed_entries_le hp h.entries
  pcRange := completed_pc_le hp h.entries
  record r hr := by rw [completed_fault, hf] at hr; cases hr
  latched ht := absurd (by rw [completed_fault, hf]) ht
  legal := by rw [completed_params]; exact h.legal

theorem exec {i : Instr} {t : State} (h : s.Inv) (hs : s.stepped = true) (hf : s.fault = none) (hp : s.fetchable)
    (he : exec i s = .next t) : t.Inv := by
  rcases exec_cases he with ⟨-, c, rfl⟩ | ⟨hc, rfl⟩
  · exact h.takeFault hs c _
  · exact h.completed hf hp hc

theorem instructionStep {t : State} (h : s.Inv) (hs : s.stepped = true) (hi : instructionStep s = .next t) :
    t.Inv := by
  rcases instructionStep_cases hi with ⟨-, rfl⟩ | ⟨-, -, rfl⟩ | ⟨-, -, -, rfl⟩ | ⟨hf, hp, i, -, he⟩
  · exact h
  · exact h.takeFault hs _ _
  · exact h.takeFault hs _ _
  · exact h.exec hs hf hp he

theorem step {t : State} (h : s.Inv) (hst : step s = .next t) : t.Inv := by
  rcases step_cases hst with ⟨hm, hi⟩ | ⟨-, rfl⟩ | ⟨k, b, -, rfl⟩ | ⟨-, rfl⟩ | ⟨image, -, -, hl, rfl⟩
  · exact h.popMove.instructionStep (by simp [hm]) hi
  · exact h.popMove.tick
  · exact h.popMove.keySet k b
  · exact h.popMove.resetBlock
  · exact h.popMove.writeBytes (by rw [Config.programBase_eq]; omega)

end State.Inv

/-- Settles O13, by the cases of a step: each of the driver's moves keeps the invariant. -/
theorem stepKeepsTheInvariant : Obligations.StepKeepsTheInvariant := fun _ _ h hst => h.step hst

/-- Settles O14: reset's state meets the invariant for every legal choice of the parameters, the defaults among them. -/
theorem resetMeetsTheInvariant : Obligations.ResetMeetsTheInvariant :=
  ⟨.of_resetWith (by decide), fun _ hp => .of_resetWith hp⟩

end Sys2Proof.Machine
end

section
/-! PROOFS. Frames (10_state.md R22): the update rules of `Unchanged`, what a completed instruction writes, and the
rules of one part of the state that follow: VF, the keypad, the pixels, the sound timer, PC. -/

namespace Sys2Proof.Machine

/-! ## The parts that a list names -/

@[simp] theorem mem_bytesAt {p : Part} {a n : Nat} : p ∈ bytesAt a n ↔ ∃ k < n, .byte (a + k) = p := by
  simp [bytesAt]

@[simp] theorem mem_regsTo {p : Part} {x : Reg} : p ∈ regsTo x ↔ ∃ r ≤ x, .reg r = p := by
  simp [regsTo]

/-! ## A frame across one update

An update of a listed part keeps a frame. -/

theorem Unchanged.refl (s : State) (but : List Part) : Unchanged s s but := fun p _ => by cases p <;> rfl

section

variable {s t : State} {but : List Part}

@[simp] theorem unchanged_setPc {w : Word} (h : .pc ∈ but) : Unchanged s (t.setPc w) but ↔ Unchanged s t but :=
  forall₂_congr fun p hp => by
    cases p with
    | pc => exact absurd h hp
    | _ => rfl

@[simp] theorem unchanged_setStack {ws : List Word} (h : .stack ∈ but) :
    Unchanged s (t.setStack ws) but ↔ Unchanged s t but :=
  forall₂_congr fun p hp => by
    cases p with
    | stack => exact absurd h hp
    | _ => rfl

@[simp] theorem unchanged_setI {w : Word} (h : .index ∈ but) : Unchanged s (t.setI w) but ↔ Unchanged s t but :=
  forall₂_congr fun p hp => by
    cases p with
    | index => exact absurd h hp
    | _ => rfl

@[simp] theorem unchanged_setDT {v : Byte} (h : .delay ∈ but) : Unchanged s (t.setDT v) but ↔ Unchanged s t but :=
  forall₂_congr fun p hp => by
    cases p with
    | delay => exact absurd h hp
    | _ => rfl

@[simp] theorem unchanged_setST {v : Byte} (h : .sound ∈ but) : Unchanged s (t.setST v) but ↔ Unchanged s t but :=
  forall₂_congr fun p hp => by
    cases p with
    | sound => exact absurd h hp
    | _ => rfl

@[simp] theorem unchanged_setFb {fb : Framebuffer} (h : .pixels ∈ but) :
    Unchanged s (t.setFb fb) but ↔ Unchanged s t but :=
  forall₂_congr fun p hp => by
    cases p with
    | pixels => exact absurd h hp
    | _ => rfl

@[simp] theorem unchanged_setDraws {n : Nat} (h : .draws ∈ but) :
    Unchanged s (t.setDraws n) but ↔ Unchanged s t but :=
  forall₂_congr fun p hp => by
    cases p with
    | draws => exact absurd h hp
    | _ => rfl

@[simp] theorem unchanged_setV {x : Reg} {v : Byte} (h : .reg x ∈ but) :
    Unchanged s (t.setV x v) but ↔ Unchanged s t but :=
  forall₂_congr fun p hp => by
    cases p with
    | reg r =>
      have ne : r ≠ x := fun e => hp (e ▸ h)
      simp only [Part.same, State.setV_getV_ne _ _ _ _ ne]
    | _ => rfl

theorem unchanged_setRegs {vs : Vector Byte 16} (h : ∀ r : Reg, .reg r ∉ but → vs[r] = t.getV r) :
    Unchanged s (t.setRegs vs) but ↔ Unchanged s t but :=
  forall₂_congr fun p hp => by
    cases p with
    | reg r => simp only [Part.same, State.setRegs_getV, h r hp]
    | _ => rfl

end

/-- A store in range changes the bytes stored to, and no other part (R25, R27). -/
theorem unchanged_writeBytes {s : State} (hw : s.mem.wf s.params = true) {a : Nat} {vs : List Byte}
    (hs : a + vs.length ≤ 4096) : Unchanged s (s.writeBytes a vs) (bytesAt a vs.length) := by
  intro p hp
  cases p with
  | byte c =>
    simp only [Part.same, readByte_writeBytes hw a vs hs]
    split
    · rename_i hc
      have beyond : vs.length ≤ c - a := by
        by_contra hlt
        exact hp (mem_bytesAt.2 ⟨c - a, by omega, by rw [Nat.add_sub_cancel' hc]⟩)
      simp [beyond]
    · rfl
  | _ => rfl

/-- No store changes a part that is no byte of memory. -/
theorem writeBytes_same {p : Part} (hb : ∀ a, p ≠ .byte a) (s : State) (a : Nat) (vs : List Byte) :
    p.same s (s.writeBytes a vs) := by
  cases p with
  | byte a => exact absurd rfl (hb a)
  | _ => rfl

theorem Part.same.trans {p : Part} {s t u : State} (h : p.same s t) (h' : p.same t u) : p.same s u := by
  cases p <;> exact Eq.trans h' h

/-! ## What a completed instruction writes -/

/-- A store: the bytes `vs` at I, and the advance (`FX33`, `FX55`). -/
def State.stored (s : State) (vs : List Byte) : State := (s.setPc (s.pc + 2)).writeBytes s.base vs

/-- An instruction that completes leaves every part outside its row of the access matrix as it was, or it stores bytes
at I whose range was checked. -/
theorem completed_unchanged_or_stored (i : Instr) (s : State) :
    Unchanged s (completed i s) (writes i s) ∨
    ∃ vs, completed i s = s.stored vs ∧ writes i s = .pc :: bytesAt s.base vs.length ∧
      (completes i s → s.base + vs.length ≤ 4096) := by
  have unchanged := Unchanged.refl s
  cases i with
  | ldB x => exact .inr ⟨_, rfl, rfl, id⟩
  | storeRegs x =>
    exact .inr ⟨_, rfl, by rw [length_regsUpTo]; rfl, by rw [length_regsUpTo]; exact id⟩
  | loadRegs x =>
    have kept (r : Reg) (hr : .reg r ∉ Part.pc :: regsTo x) :
        (s.loadedRegs x s.base)[r] = (s.setPc (s.pc + 2)).getV r := by
      have above : ¬ r ≤ x := by simpa using hr
      rw [State.loadedRegs_get, if_neg above, State.setPc_getV]
    exact .inl ((unchanged_setRegs kept).2 (by simp [unchanged]))
  | ldVxK x =>
    left
    simp only [completed]
    split <;> simp [writes, unchanged]
  | shr x y | shl x y => exact .inl (by simp [completed, writes, State.flagThenShift, unchanged])
  | drw x y n => exact .inl (by simp [completed, writes, State.drawSprite, unchanged])
  | _ => exact .inl (by simp [completed, writes, unchanged])

theorem stored_unchanged {s : State} (hw : s.mem.wf s.params = true) {vs : List Byte}
    (hs : s.base + vs.length ≤ 4096) : Unchanged s (s.stored vs) (.pc :: bytesAt s.base vs.length) := by
  intro p hp
  obtain ⟨hpc, hbytes⟩ := not_or.1 (mt List.mem_cons.2 hp)
  have advanced : Unchanged s (s.setPc (s.pc + 2)) [.pc] := (unchanged_setPc (by simp)).2 (.refl s _)
  exact (advanced p (by simpa using hpc)).trans
    (unchanged_writeBytes (s := s.setPc (s.pc + 2)) hw hs p hbytes)

/-- From a canonical memory, an instruction that completes writes its row of the access matrix alone (R22). -/
theorem completed_unchanged {i : Instr} {s : State} (hw : s.mem.wf s.params = true) (hc : completes i s) :
    Unchanged s (completed i s) (writes i s) := by
  rcases completed_unchanged_or_stored i s with h | ⟨vs, h, hrow, hs⟩
  · exact h
  · rw [h, hrow]
    exact stored_unchanged hw (hs hc)

/-- A part that is no byte of memory and not in the row stays, from any memory: only a store needs the canonical form. -/
theorem completed_same {p : Part} (hb : ∀ a, p ≠ .byte a) {i : Instr} {s : State} (hp : p ∉ writes i s) :
    p.same s (completed i s) := by
  rcases completed_unchanged_or_stored i s with h | ⟨vs, h, hrow, -⟩
  · exact h p hp
  · have advanced : Unchanged s (s.setPc (s.pc + 2)) (writes i s) :=
      (unchanged_setPc (by simp [hrow])).2 (.refl s _)
    rw [h]
    exact (advanced p hp).trans (writeBytes_same hb _ _ _)

theorem takeFault_same {p : Part} (hl : p ≠ .latch) (s : State) (c : Cause) (w : Option Word) :
    p.same s (s.takeFault c w) := by
  cases p with
  | latch => exact absurd rfl hl
  | _ => rfl

theorem popMove_same {p : Part} (hs : p ≠ .schedule) (ht : p ≠ .stepped) (s : State) : p.same s s.popMove := by
  cases p with
  | schedule => exact absurd rfl hs
  | stepped => exact absurd rfl ht
  | _ => rfl

/-- An instruction changes a part other than memory and the latch only if its row names it (R22). -/
theorem exec_same {p : Part} (hb : ∀ a, p ≠ .byte a) (hl : p ≠ .latch) {i : Instr} {s t : State}
    (hp : p ∉ writes i s) (h : exec i s = .next t) : p.same s t := by
  rcases exec_cases h with ⟨-, c, rfl⟩ | ⟨-, rfl⟩
  · exact takeFault_same hl s c _
  · exact completed_same hb hp

/-- An instruction step that changes such a part has decoded an instruction whose row names it. -/
theorem instructionStep_same_or_writes {p : Part} (hb : ∀ a, p ≠ .byte a) (hl : p ≠ .latch) {s t : State}
    (h : instructionStep s = .next t) :
    p.same s t ∨ ∃ i, decodeWord s.wordAtPc = .ok i ∧ p ∈ writes i s := by
  rcases instructionStep_cases h with ⟨-, rfl⟩ | ⟨-, -, rfl⟩ | ⟨-, -, -, rfl⟩ | ⟨-, -, i, hd, he⟩
  · exact .inl (Unchanged.refl _ [] p List.not_mem_nil)
  · exact .inl (takeFault_same hl s _ _)
  · exact .inl (takeFault_same hl s _ _)
  · by_cases hp : p ∈ writes i s
    · exact .inr ⟨i, hd, hp⟩
    · exact .inl (exec_same hb hl hp he)

/-! ## Which rows name a part -/

theorem sound_mem_writes {i : Instr} {s : State} (h : .sound ∈ writes i s) : ∃ x, i = .ldSTVx x := by
  cases i with
  | ldSTVx x => exact ⟨x, rfl⟩
  | _ => simp [writes] at h

theorem pixels_mem_writes {i : Instr} {s : State} (h : .pixels ∈ writes i s) :
    i = .cls ∨ ∃ x y n, i = .drw x y n := by
  cases i with
  | cls => exact .inl rfl
  | drw x y n => exact .inr ⟨x, y, n, rfl⟩
  | _ => simp [writes] at h

theorem keys_not_mem_writes (i : Instr) (s : State) : .keys ∉ writes i s := by
  cases i <;> simp [writes]

/-- The rows that name VF: the flag writers, and the destinations that are VF (R10). -/
theorem vf_mem_writes {i : Instr} {s : State} (h : .reg VF ∈ writes i s) :
    writesFlag i = true ∨ destinationIsVF i = true := by
  cases i with
  | addReg x y | subReg x y | shr x y | subnReg x y | shl x y | drw x y n => exact .inl rfl
  | loadRegs x =>
    have le : VF ≤ x := by simpa [writes] using h
    exact .inr (by simpa [destinationIsVF] using Fin.last_le_iff.1 le)
  | _ => simp [writes] at h <;> simp [destinationIsVF, h]

/-! ## The access matrix and its columns -/

/-- Settles O53, by the cases of an instruction: it faults, or it completes within its row. -/
theorem instructionsWriteOnlyTheirMatrixRow : Obligations.InstructionsWriteOnlyTheirMatrixRow := by
  intro i s t hw h
  rcases exec_cases h with ⟨-, hfault⟩ | ⟨hc, rfl⟩
  · exact .inl hfault
  · exact .inr (completed_unchanged hw hc)

theorem flagByte_eq_zero_or_one (c : Bool) : flagByte c = 0 ∨ flagByte c = 1 := by cases c <;> decide

theorem shiftRightOut_eq_zero_or_one (a : Byte) : shiftRightOut a = 0 ∨ shiftRightOut a = 1 := by
  have h : (shiftRightOut a).toNat = a.toNat % 2 := by simp [shiftRightOut, Nat.and_one_is_mod]
  have lt := Nat.mod_lt a.toNat two_pos
  bv_omega

theorem shiftLeftOut_eq_zero_or_one (a : Byte) : shiftLeftOut a = 0 ∨ shiftLeftOut a = 1 := by
  have h : (shiftLeftOut a).toNat = a.toNat / 128 := by simp [shiftLeftOut, Nat.shiftRight_eq_div_pow]
  have lt := a.isLt
  bv_omega

/-- A shift whose destination is not VF leaves in VF the bit it wrote there. -/
theorem flagThenShift_getV_VF {x : Reg} (hx : x ≠ VF) (s : State) (flag : Byte) (shift : Byte → Byte) :
    (s.flagThenShift x flag shift).getV VF = flag := by
  simp [State.flagThenShift, hx.symm]

/-- A flag writer whose destination is not VF leaves 0 or 1 in VF (R10, R63). -/
theorem completed_flag {i : Instr} (hw : writesFlag i = true) (hd : destinationIsVF i = false) (s : State) :
    (completed i s).getV VF = 0 ∨ (completed i s).getV VF = 1 := by
  cases i with
  | addReg x y | subReg x y | subnReg x y =>
    rw [completed, State.setV_getV_same]
    exact flagByte_eq_zero_or_one _
  | drw x y n =>
    rw [completed, State.drawSprite, State.setFlag_eq, State.setV_getV_same]
    exact flagByte_eq_zero_or_one _
  | shr x y =>
    have hx : x ≠ VF := by simpa [destinationIsVF] using hd
    simp only [completed, flagThenShift_getV_VF hx]
    exact shiftRightOut_eq_zero_or_one _
  | shl x y =>
    have hx : x ≠ VF := by simpa [destinationIsVF] using hd
    simp only [completed, flagThenShift_getV_VF hx]
    exact shiftLeftOut_eq_zero_or_one _
  | _ => cases hw

/-- Settles O33: VF is written by the rows that name it, and a flag is 0 or 1. -/
theorem onlyFlagWritersTouchVF : Obligations.OnlyFlagWritersTouchVF := by
  intro i s t h
  refine ⟨fun changed => ?_, fun hw hd => ?_⟩
  · have named : .reg VF ∈ writes i s := by
      by_contra hp
      exact changed (exec_same (p := .reg VF) (by simp) (by simp) hp h)
    exact vf_mem_writes named
  · rcases exec_cases h with ⟨-, hfault⟩ | ⟨-, rfl⟩
    · exact .inr hfault
    · exact .inl (completed_flag hw hd s)

/-- The advance alone, in an instruction that is not of R11's list. -/
theorem completed_pc_of_not_writesPc {i : Instr} (h : writesPc i = false) (s : State) :
    (completed i s).pc = s.pc + 2 := by
  cases i with
  | ret | jp nnn | call nnn | seImm x nn | sneImm x nn | seReg x y | sneReg x y | jpV0 nnn | skp x | sknp x | ldVxK x =>
    cases h
  | _ => rfl

/-! ## A step that is one of the driver's other moves -/

theorem step_tick {s : State} (h : s.nextMove = .tick) : step s = .next s.popMove.tick := by rw [step, h]; rfl

theorem step_keySet {s : State} {k : Fin 16} {b : Bool} (h : s.nextMove = .keySet k b) :
    step s = .next (s.popMove.keySet k b) := by rw [step, h]; rfl

theorem step_reset {s : State} (h : s.nextMove = .reset) : step s = .next s.popMove.resetBlock := by
  rw [step, h]; rfl

theorem step_instruction {s : State} (h : s.nextMove = .step) : step s = instructionStep s.popMove := by
  rw [step, h]; rfl

/-- Settles O54: the advance is the only write of PC outside R11's list, and `tick` and `key_set` write none. -/
theorem onlyControlInstructionsRedirectPc : Obligations.OnlyControlInstructionsRedirectPc := by
  refine ⟨fun i s t h hi => ?_, fun s t h hm => ?_⟩
  · rcases exec_cases h with ⟨-, hfault⟩ | ⟨-, rfl⟩
    · exact .inr hfault
    · exact .inl (completed_pc_of_not_writesPc hi s)
  · rcases hm with hm | ⟨k, b, hm⟩
    · rw [step_tick hm] at h
      cases h
      rfl
    · rw [step_keySet hm] at h
      cases h
      rfl

/-- Settles O52: of the driver's moves only `tick`, `reset` and a step whose row names ST can change ST. -/
theorem toneChangesOnlyByItsThreeCauses : Obligations.ToneChangesOnlyByItsThreeCauses := by
  refine ⟨fun s => by simp [State.tone], fun s t h changed => ?_⟩
  have moved : t.ST ≠ s.ST := fun e => changed (by rw [State.tone, e]; rfl)
  rcases step_cases h with ⟨hm, hi⟩ | ⟨hm, -⟩ | ⟨k, b, -, rfl⟩ | ⟨hm, -⟩ | ⟨image, -, -, -, rfl⟩
  · rcases instructionStep_same_or_writes (p := .sound) (by simp) (by simp) hi with same | ⟨i, hd, hp⟩
    · exact absurd same moved
    · obtain ⟨x, rfl⟩ := sound_mem_writes hp
      exact .inr (.inr ⟨hm, x, hd⟩)
  · exact .inl hm
  · exact absurd rfl moved
  · exact .inr (.inl hm)
  · exact absurd rfl moved

/-- No instruction writes the keypad (R20, R22). -/
theorem exec_key {i : Instr} {s t : State} (h : exec i s = .next t) : t.key = s.key :=
  exec_same (p := .keys) (by simp) (by simp) (keys_not_mem_writes i s) h

/-- Settles O57, by the cases of a step and the rows that name the keypad (none) and the pixels. -/
theorem keysAndPixelsChangeOnlyByTheirCauses : Obligations.KeysAndPixelsChangeOnlyByTheirCauses := by
  intro s t h
  rcases step_cases h with ⟨hm, hi⟩ | ⟨-, rfl⟩ | ⟨k, b, hm, rfl⟩ | ⟨hm, -⟩ | ⟨image, -, -, -, rfl⟩
  · refine ⟨fun changed => ?_, fun changed => ?_⟩
    · rcases instructionStep_same_or_writes (p := .keys) (by simp) (by simp) hi with same | ⟨i, -, hp⟩
      · exact absurd same changed
      · exact absurd hp (keys_not_mem_writes i _)
    · rcases instructionStep_same_or_writes (p := .pixels) (by simp) (by simp) hi with same | ⟨i, hd, hp⟩
      · exact absurd same changed
      · right
        rcases pixels_mem_writes hp with rfl | ⟨x, y, n, rfl⟩
        · exact ⟨hm, .inl hd⟩
        · exact ⟨hm, .inr ⟨x, y, n, hd⟩⟩
  · exact ⟨absurd rfl, absurd rfl⟩
  · exact ⟨fun _ => .inl ⟨k, b, hm⟩, absurd rfl⟩
  · exact ⟨fun _ => .inr hm, fun _ => .inl hm⟩
  · exact ⟨absurd rfl, absurd rfl⟩

end Sys2Proof.Machine
end

section
/-! PROOFS. Noninterference (10_state.md R15, R20): an instruction run from a state with one field replaced. -/

namespace Sys2Proof.Machine

/-! ## The fault an instruction raises -/

/-- The cause that an instruction latches when it does not complete (R93). -/
def raisedCause (i : Instr) (s : State) : Cause :=
  match i with
  | .ret => .stackUnderflow
  | .call _ => .stackOverflow
  | .skp x | .sknp x => .badKeyIndex (s.getV x)
  | _ => .memOutOfBounds (max s.base 4096)

theorem exec_raises_cause {i : Instr} {s : State} (h : ¬ completes i s) :
    exec i s = .next (s.takeFault (raisedCause i s) (some (encode i))) := by
  cases i with
  | ret =>
    have empty : s.stack = [] := not_not.1 h
    simp [exec, execRet, State.top, empty, raise, raisedCause]
  | call nnn =>
    rw [exec, execCall, Bool.eq_true_of_not_eq_false h]
    rfl
  | skp x =>
    simp only [exec, execSkp, keyNumber_ge (not_lt.1 h)]
    rfl
  | sknp x =>
    simp only [exec, execSknp, keyNumber_ge (not_lt.1 h)]
    rfl
  | drw x y n =>
    obtain ⟨some_row, beyond⟩ := not_or.1 h
    rw [exec, execDrw, accessing_outOfRange (by omega) (not_le.1 beyond)]
    rfl
  | ldB x =>
    rw [exec, execLdB, accessing_outOfRange (by omega) (not_le.1 h)]
    rfl
  | storeRegs x =>
    rw [exec, execStoreRegs, accessing_outOfRange (by omega) (not_le.1 h)]
    rfl
  | loadRegs x =>
    rw [exec, execLoadRegs, accessing_outOfRange (by omega) (not_le.1 h)]
    rfl
  | _ => exact absurd trivial h

/-! ## Results changed -/

theorem mapNext_mapNext (f g : State → State) (r : Result) : mapNext f (mapNext g r) = mapNext (f ∘ g) r := by
  cases r <;> rfl

/-- A change `f` of the state passes through an instruction that completes or faults alike with and without it. -/
theorem exec_mapNext {f : State → State} {i : Instr} {s : State} (hc : completes i (f s) ↔ completes i s)
    (hd : completed i (f s) = f (completed i s))
    (hr : ∀ w, (f s).takeFault (raisedCause i (f s)) w = f (s.takeFault (raisedCause i s) w)) :
    exec i (f s) = mapNext f (exec i s) := by
  by_cases h : completes i s
  · rw [exec_completes h, exec_completes (hc.2 h), hd]
    rfl
  · rw [exec_raises_cause h, exec_raises_cause (mt hc.1 h), hr]
    rfl

/-! ## The sound timer -/

theorem completes_setST (i : Instr) (s : State) (v : Byte) : completes i (s.setST v) ↔ completes i s := by
  cases i <;> rfl

theorem raisedCause_setST (i : Instr) (s : State) (v : Byte) : raisedCause i (s.setST v) = raisedCause i s := by
  cases i <;> rfl

/-- `FX18` alone replaces ST; every other instruction that completes carries it through (R15, R92). -/
theorem completed_setST {i : Instr} (hi : ∀ x, i ≠ .ldSTVx x) (s : State) (v : Byte) :
    completed i (s.setST v) = (completed i s).setST v := by
  cases i with
  | ldSTVx x => exact absurd rfl (hi x)
  | ldVxK x =>
    have same : (s.setST v).firstPressed = s.firstPressed := rfl
    simp only [completed, same]
    cases s.firstPressed <;> rfl
  | _ => rfl

theorem exec_setST {i : Instr} (hi : ∀ x, i ≠ .ldSTVx x) (s : State) (v : Byte) :
    exec i (s.setST v) = mapNext (·.setST v) (exec i s) :=
  exec_mapNext (f := (·.setST v)) (completes_setST i s v) (completed_setST hi s v)
    fun _ => by rw [raisedCause_setST]; rfl

/-- Settles O55: `FX18` replaces ST, and every other instruction carries it through. -/
theorem noInstructionReadsTheSoundTimer : Obligations.NoInstructionReadsTheSoundTimer := by
  intro i s v
  refine ⟨?_, fun hi => exec_setST hi s v⟩
  by_cases hi : ∃ x, i = .ldSTVx x
  · obtain ⟨x, rfl⟩ := hi
    rfl
  · rw [exec_setST (not_exists.1 hi), mapNext_mapNext]
    rfl

/-! ## The keypad -/

theorem completes_setKeys (i : Instr) (s : State) (ks : Vector Bool 16) :
    completes i (s.setKeys ks) ↔ completes i s := by
  cases i <;> rfl

theorem raisedCause_setKeys (i : Instr) (s : State) (ks : Vector Bool 16) :
    raisedCause i (s.setKeys ks) = raisedCause i s := by
  cases i <;> rfl

theorem completed_setKeys {i : Instr} (hi : readsKeys i = false) (s : State) (ks : Vector Bool 16) :
    completed i (s.setKeys ks) = (completed i s).setKeys ks := by
  cases i with
  | skp x | sknp x | ldVxK x => cases hi
  | _ => rfl

/-- Settles O56: the keypad is read by three instructions, and it is in no row of the access matrix as written. -/
theorem onlyThreeInstructionsReadTheKeypad : Obligations.OnlyThreeInstructionsReadTheKeypad := fun i s =>
  ⟨fun ks hi => exec_mapNext (f := (·.setKeys ks)) (completes_setKeys i s ks) (completed_setKeys hi s ks)
    fun _ => by rw [raisedCause_setKeys]; rfl,
   fun _ h => exec_key h⟩

end Sys2Proof.Machine
end

section
/-! PROOFS. The encoder after the decoder (30_encoding.md R38, R41, R42): a word is put together again from the fields
that the choice of its instruction kept. -/

namespace Sys2Proof

theorem encode_of_selectZero {f : Fields} {i : Instr} (h : selectZero f = some i) : encode i = formatA 0x0#4 f.nnn := by
  unfold selectZero at h
  split at h
  case h_3 => cases h
  all_goals
    rename_i selector
    cases h
    rw [selector]
    rfl

theorem encode_of_selectEight {f : Fields} {i : Instr} (h : selectEight f = some i) :
    encode i = formatR 0x8#4 f.x f.y f.n := by
  unfold selectEight at h
  split at h
  case h_10 => cases h
  all_goals
    rename_i selector
    cases h
    rw [selector]
    rfl

theorem encode_of_selectE {f : Fields} {i : Instr} (h : selectE f = some i) : encode i = formatI 0xE#4 f.x f.nn := by
  unfold selectE at h
  split at h
  case h_3 => cases h
  all_goals
    rename_i selector
    cases h
    rw [selector]
    rfl

theorem encode_of_selectF {f : Fields} {i : Instr} (h : selectF f = some i) : encode i = formatI 0xF#4 f.x f.nn := by
  unfold selectF at h
  split at h
  case h_10 => cases h
  all_goals
    rename_i selector
    cases h
    rw [selector]
    rfl

/-- An instruction chosen by family and selector has the word of its fields, in one of the three formats. -/
theorem encode_of_select {f : Fields} {i : Instr} (h : select f = some i) :
    encode i = formatA f.op f.nnn ∨ encode i = formatI f.op f.x f.nn ∨ encode i = formatR f.op f.x f.y f.n := by
  unfold select at h
  split at h
  case h_1 hop => exact .inl (by rw [hop, encode_of_selectZero h])
  case h_2 hop | h_3 hop | h_11 hop | h_12 hop =>
    cases h
    exact .inl (by rw [hop]; rfl)
  case h_4 hop | h_5 hop | h_7 hop | h_8 hop | h_13 hop =>
    cases h
    exact .inr (.inl (by rw [hop]; rfl))
  case h_6 hop | h_10 hop =>
    obtain ⟨hn, hi⟩ := Option.ite_none_right_eq_some.1 h
    cases hi
    exact .inr (.inr (by rw [hop, hn]; rfl))
  case h_9 hop => exact .inr (.inr (by rw [hop, encode_of_selectEight h]))
  case h_14 hop =>
    cases h
    exact .inr (.inr (by rw [hop]; rfl))
  case h_15 hop => exact .inr (.inl (by rw [hop, encode_of_selectE h]))
  case h_16 hop => exact .inr (.inl (by rw [hop, encode_of_selectF h]))
  case h_17 => cases h

/-- A word that decodes is the word of its instruction: no bit of it is lost. -/
theorem encode_of_decodeWord {w : Word} {i : Instr} (h : decodeWord w = .ok i) : encode i = w := by
  obtain ⟨asA, asI, asR⟩ := word_of_fields (highByte w) (lowByte w)
  rw [highByte_append_lowByte] at asA asI asR
  unfold decodeWord at h
  split at h
  · rename_i j hj
    cases h
    rcases encode_of_select hj with he | he | he
    · exact he.trans asA.symm
    · exact he.trans asI.symm
    · exact he.trans asR.symm
  · cases h

end Sys2Proof
end

section
/-! PROOFS. A faulting step (40_step_cycle.md R53), one draw (42_alu.md R76), and reset (70_reset_and_hazards.md
R113). -/

namespace Sys2Proof.Machine

/-- A step from a running state that latches a fault has taken it on the state before it, with the word at PC as the
record's opcode when the fetch was in range (R16, R53). -/
theorem instructionStep_fault {s t : State} {r : FaultRecord} (hf : s.fault = none)
    (h : instructionStep s = .next t) (ht : t.fault = some r) :
    ∃ c, t = s.takeFault c (if s.pc.toNat + 1 < 4096 then some s.wordAtPc else none) := by
  rcases instructionStep_cases h with
    ⟨hn, -⟩ | ⟨-, hp, rfl⟩ | ⟨-, hp, -, rfl⟩ | ⟨-, hp, i, hd, he⟩
  · exact absurd hf hn
  · exact ⟨_, congrArg (s.takeFault _) (if_neg hp).symm⟩
  · exact ⟨_, congrArg (s.takeFault _) (if_pos hp).symm⟩
  · rcases exec_cases he with ⟨-, c, rfl⟩ | ⟨-, rfl⟩
    · rw [encode_of_decodeWord hd]
      exact ⟨c, congrArg (s.takeFault c) (if_pos hp).symm⟩
    · rw [completed_fault, hf] at ht
      cases ht

/-- Settles O11: the state before the step is the one with the move taken off the schedule. -/
theorem faultingStepChangesOnlyTheLatch : Obligations.FaultingStepChangesOnlyTheLatch := by
  intro s t r hm hf h ht
  rw [step_instruction hm] at h
  obtain ⟨c, rfl⟩ := instructionStep_fault (s := s.popMove) hf h ht
  cases ht
  exact ⟨rfl, rfl, rfl⟩

/-- Settles O32: the draw is a free value, so nothing is used of it. -/
theorem randomLoadMasksTheDraw : Obligations.RandomLoadMasksTheDraw := by
  intro x nn s
  have loaded : (completed (.rnd x nn) s).getV x = Config.rnd s.draws &&& nn := by simp [completed]
  have frame : Unchanged s (completed (.rnd x nn) s) [.pc, .reg x, .draws] := by
    simp [completed, Unchanged.refl]
  refine ⟨_, exec_completes trivial, loaded, rfl, fun k hk => ?_, rfl, frame⟩
  rw [loaded, BitVec.getLsbD_and, hk, Bool.and_false]

/-- A memory at its reset contents reads as FONT below 80 and as 0 above (R23, R30). -/
theorem readByte_of_mem_nil {s : State} (h : s.mem = []) (a : Nat) : s.readByte a = unlisted s.params a := by
  rw [State.readByte, h, Memory.read]

theorem clear_pixel (y : Fin 32) (x : Fin 64) : Framebuffer.clear.pixel y x = false := by
  simp [Framebuffer.clear, Framebuffer.pixel]

/-- Settles O58: reset takes nothing from the state but the parameters and the model's own account of draws and moves. -/
theorem resetPutsEveryPartAtItsResetValue : Obligations.ResetPutsEveryPartAtItsResetValue := by
  intro s hm
  have glyph (a : Nat) (h : a < 80) : s.popMove.resetBlock.readByte a = s.params.font[a] :=
    (readByte_of_mem_nil rfl a).trans (dif_pos h)
  have zero (a : Nat) (h : 80 ≤ a) : s.popMove.resetBlock.readByte a = 0 :=
    (readByte_of_mem_nil rfl a).trans (dif_neg (not_lt.2 h))
  refine ⟨_, step_reset hm, rfl, fun r => ?_, rfl, rfl, rfl, rfl, fun y x => ?_, fun k => ?_, glyph, zero, rfl, rfl,
    rfl⟩
  · exact Vector.getElem_replicate _
  · exact clear_pixel y x
  · exact Vector.getElem_replicate _

end Sys2Proof.Machine
end

section
/-! PROOFS. Memory (20_memory.md R26, R33, R36): an access out of range, a store that the next fetch reads, the driver's
`load`, and the boot sequence of 70_reset_and_hazards.md R115. -/

namespace Sys2Proof.Machine

/-! ## A raised fault -/

/-- An instruction that does not complete latches its record and changes nothing else (R53, R100). -/
theorem exec_raises_latch {i : Instr} {s : State} (h : ¬ completes i s) :
    ∃ t, exec i s = .next t ∧ Unchanged s t [.latch] ∧ t.fault = some ⟨raisedCause i s, some (encode i), s.pc⟩ :=
  ⟨_, exec_raises_cause h, fun _ hp => takeFault_same (by simpa using hp) s _ _, rfl⟩

/-- Settles O41: each range that leaves memory is one its instruction does not complete on. -/
theorem outOfRangeAccessLatchesMemOutOfBounds : Obligations.OutOfRangeAccessLatchesMemOutOfBounds := by
  intro x y n s
  refine ⟨fun h => ?_, fun h => ?_, fun h => ?_, fun hn h => ?_⟩
  · exact exec_raises_latch (i := .ldB x) (by simp only [completes, State.base]; omega)
  · exact exec_raises_latch (i := .storeRegs x) (by simp only [completes, State.base]; omega)
  · exact exec_raises_latch (i := .loadRegs x) (by simp only [completes, State.base]; omega)
  · exact exec_raises_latch (i := .drw x y n) (by simp only [completes, State.base]; omega)

/-! ## Bytes stored where they are read -/

theorem readByte_writeBytes_of_lt {s : State} (hw : s.mem.wf s.params = true) {a k : Nat} {vs : List Byte}
    (hs : a + vs.length ≤ 4096) (hk : k < vs.length) : (s.writeBytes a vs).readByte (a + k) = vs[k] := by
  rw [readByte_writeBytes hw a vs hs, if_pos (Nat.le_add_right a k), Nat.add_sub_cancel_left,
    List.getD_eq_getElem _ _ hk]

/-- Two or more bytes stored at PC are the word there, high byte first (R27, R36). -/
theorem wordAtPc_writeBytes {s : State} (hw : s.mem.wf s.params = true) {a : Nat} (hpc : s.pc.toNat = a)
    {vs : List Byte} (hs : a + vs.length ≤ 4096) (h2 : 1 < vs.length) :
    (s.writeBytes a vs).wordAtPc = vs[0] ++ vs[1] := by
  subst hpc
  have high := readByte_writeBytes_of_lt hw hs (Nat.zero_lt_of_lt h2)
  have low := readByte_writeBytes_of_lt hw hs h2
  exact congrArg₂ (· ++ ·) high low

theorem getElem_regsUpTo {s : State} {x : Reg} {k : Nat} (hk : k < (s.regsUpTo x).length) :
    (s.regsUpTo x)[k] = s.getV (Fin.ofNat 16 k) := by
  have lt : k < 16 := by rw [length_regsUpTo] at hk; omega
  simp [State.regsUpTo, State.getV, Nat.mod_eq_of_lt lt]

/-- Settles O16: the registers are stored at the advanced PC. -/
theorem storeIsSeenByTheNextFetch : Obligations.StoreIsSeenByTheNextFetch := by
  intro s x hw hI hx hrange
  have inRange : completes (.storeRegs x) s := by simp only [completes, State.base]; omega
  have pc : (s.pc + 2).toNat = s.base := by simp only [State.base]; bv_omega
  have length : (s.regsUpTo x).length = x.val + 1 := length_regsUpTo s x
  have word : ((s.setPc (s.pc + 2)).writeBytes s.base (s.regsUpTo x)).wordAtPc = s.getV 0 ++ s.getV 1 := by
    rw [wordAtPc_writeBytes (s := s.setPc (s.pc + 2)) hw pc (by rw [length]; exact inRange) (by omega),
      getElem_regsUpTo, getElem_regsUpTo]
    rfl
  have fetchable : (s.pc + 2).toNat + 1 < 4096 := by rw [pc, State.base]; omega
  exact ⟨_, exec_completes inRange, fetchable, word⟩

/-! ## Every move answers -/

theorem exec_answers (i : Instr) (s : State) : ∃ t, exec i s = .next t := by
  by_cases h : completes i s
  · exact ⟨_, exec_completes h⟩
  · exact ⟨_, exec_raises_cause h⟩

/-- A step "always either completes one instruction or faults" (R54), or has no effect while halted (R47). -/
theorem instructionStep_answers (s : State) : ∃ t, instructionStep s = .next t := by
  cases hf : s.fault with
  | some r => exact ⟨_, instructionStep_halted hf⟩
  | none =>
    rw [instructionStep_running hf]
    by_cases hp : s.fetchable
    · cases hd : decodeWord s.wordAtPc with
      | ok i => rw [runInstruction_legal hp hd]; exact exec_answers i s
      | error e => exact ⟨_, runInstruction_illegal hp hd⟩
    · exact ⟨_, runInstruction_fetchFault hp⟩

section

variable {s : State} {image : List Byte}

theorem popMove_stepped (h : s.nextMove ≠ .step) : s.popMove.stepped = s.stepped := by simp [h]

theorem step_load (h : s.nextMove = .load image) : step s = load image s.popMove := by rw [step, h]; rfl

theorem step_load_places (hm : s.nextMove = .load image) (hs : s.stepped = false) (hl : image.length ≤ 3584) :
    step s = .next (s.popMove.writeBytes Config.programBase image) := by
  rw [step_load hm, load_places ((popMove_stepped (by simp [hm])).trans hs) hl]

theorem step_load_tooLong (hm : s.nextMove = .load image) (hs : s.stepped = false) (hl : 3584 < image.length) :
    step s = .refused .imageTooLong := by
  have fresh : s.popMove.stepped = false := (popMove_stepped (by simp [hm])).trans hs
  rw [step_load hm, load, fresh]
  simp [imageFits, hl]

theorem step_load_afterStep (hm : s.nextMove = .load image) (hs : s.stepped = true) :
    step s = .refused .loadAfterStep := by
  have late : s.popMove.stepped = true := (popMove_stepped (by simp [hm])).trans hs
  rw [step_load hm, load, late]
  rfl

end

/-- Settles O12, by the driver's moves: only `load` has a condition. -/
theorem everyMoveAnswersANextState : Obligations.EveryMoveAnswersANextState := by
  intro s
  cases hm : s.nextMove with
  | step => rw [step_instruction hm]; exact .inl (instructionStep_answers _)
  | tick => exact .inl ⟨_, step_tick hm⟩
  | keySet k b => exact .inl ⟨_, step_keySet hm⟩
  | reset => exact .inl ⟨_, step_reset hm⟩
  | load image =>
    cases hs : s.stepped with
    | true => exact .inr (.inl ⟨image, rfl, rfl, step_load_afterStep hm hs⟩)
    | false =>
      rcases Nat.lt_or_ge 3584 image.length with hl | hl
      · exact .inr (.inr ⟨image, rfl, rfl, hl, step_load_tooLong hm hs hl⟩)
      · exact .inl ⟨_, step_load_places hm hs hl⟩

/-- Settles O59: `load` is a store at 0x200 on the state with the move taken off the schedule. -/
theorem loadPlacesTheImage : Obligations.LoadPlacesTheImage := by
  intro image s hw hm
  refine ⟨fun hs hl => ?_, step_load_tooLong hm, step_load_afterStep hm⟩
  have fits : 0x200 + image.length ≤ 4096 := by omega
  have frame : Unchanged s (s.popMove.writeBytes 0x200 image) (.schedule :: bytesAt 0x200 image.length) := by
    intro p hp
    obtain ⟨notSchedule, notImage⟩ := not_or.1 (mt List.mem_cons.2 hp)
    have stored := unchanged_writeBytes (s := s.popMove) hw fits p notImage
    by_cases ht : p = .stepped
    · subst ht
      exact popMove_stepped (by simp [hm])
    · exact (popMove_same notSchedule ht s).trans stored
  exact ⟨_, step_load_places hm hs hl, fun k hk => readByte_writeBytes_of_lt (s := s.popMove) hw fits hk, frame⟩

/-! ## Boot -/

theorem nextMove_of_schedule {s : State} {m : Move} {ms : List Move} (h : s.schedule = m :: ms) : s.nextMove = m := by
  simp [State.nextMove, h]

/-- Between `reset` and `load` (R115): PC and memory at their reset contents, nothing latched, no `step` yet. -/
structure State.AwaitsLoad (s : State) : Prop where
  pc        : s.pc = 0x200
  memory    : s.mem = []
  latch     : s.fault = none
  unstepped : s.stepped = false

namespace State.AwaitsLoad

theorem resetBlock (s : State) : s.resetBlock.AwaitsLoad := ⟨rfl, rfl, rfl, rfl⟩

variable {s : State}

theorem popMove (h : s.AwaitsLoad) (hm : s.nextMove ≠ .step) : s.popMove.AwaitsLoad :=
  ⟨h.pc, h.memory, h.latch, (popMove_stepped hm).trans h.unstepped⟩

theorem tick (h : s.AwaitsLoad) : s.tick.AwaitsLoad := ⟨h.pc, h.memory, h.latch, h.unstepped⟩

theorem keySet (h : s.AwaitsLoad) (k : Fin 16) (b : Bool) : (s.keySet k b).AwaitsLoad :=
  ⟨h.pc, h.memory, h.latch, h.unstepped⟩

theorem memory_wf (h : s.AwaitsLoad) : s.mem.wf s.params = true := by rw [h.memory]; rfl

/-- A tick or a key change, performed before the first `step`. -/
theorem step {m : Move} {ms : List Move} (h : s.AwaitsLoad) (hsch : s.schedule = m :: ms)
    (hm : m = .tick ∨ ∃ k b, m = .keySet k b) : ∃ t, step s = .next t ∧ t.AwaitsLoad ∧ t.schedule = ms := by
  have next := nextMove_of_schedule hsch
  have rest : s.popMove.schedule = ms := congrArg List.tail hsch
  rcases hm with rfl | ⟨k, b, rfl⟩
  · exact ⟨_, step_tick next, (h.popMove (by simp [next])).tick, rest⟩
  · exact ⟨_, step_keySet next, (h.popMove (by simp [next])).keySet k b, rest⟩

end State.AwaitsLoad

/-- Any ticks and key changes go by between `reset` and `load` (R108). -/
theorem runMoves_awaitsLoad {between later : List Move} {s : State} (h : s.AwaitsLoad)
    (hsch : s.schedule = between ++ later) (hm : ∀ m ∈ between, m = .tick ∨ ∃ k b, m = .keySet k b) :
    ∃ t, (∀ n, runMoves (between.length + n) s = runMoves n t) ∧ t.AwaitsLoad ∧ t.schedule = later := by
  induction between generalizing s with
  | nil => exact ⟨s, fun n => by rw [List.length_nil, Nat.zero_add], h, hsch⟩
  | cons m between ih =>
    obtain ⟨u, hstep, hu, rest⟩ := h.step hsch (hm m List.mem_cons_self)
    obtain ⟨t, hrun, ht⟩ := ih hu rest fun m' hm' => hm m' (List.mem_cons_of_mem m hm')
    refine ⟨t, fun n => ?_, ht⟩
    rw [List.length_cons, Nat.add_right_comm, runMoves_succ hstep, hrun]

/-- Settles O60: reset, the moves between, and a load at the address that PC holds since reset. -/
theorem bootStartsAtTheFirstWord : Obligations.BootStartsAtTheFirstWord := by
  intro b1 b2 rest between later s hsch hm hl
  have atReset := step_reset (nextMove_of_schedule hsch)
  have afterReset : s.popMove.resetBlock.schedule = between ++ .load (b1 :: b2 :: rest) :: later :=
    congrArg List.tail hsch
  obtain ⟨u, hrun, hu, loadNext⟩ := runMoves_awaitsLoad (.resetBlock s.popMove) afterReset hm
  have atLoad := step_load_places (nextMove_of_schedule loadNext) hu.unstepped hl
  have base : u.popMove.pc.toNat = Config.programBase := congrArg BitVec.toNat hu.pc
  have fits : Config.programBase + (b1 :: b2 :: rest).length ≤ 4096 := by
    simp only [Config.programBase_eq, List.length_cons]
    omega
  have word := wordAtPc_writeBytes (s := u.popMove) hu.memory_wf base fits (by simp)
  have run := calc runMoves (between.length + 2) s
    _ = runMoves (between.length + 1) s.popMove.resetBlock := runMoves_succ atReset
    _ = runMoves 1 u := hrun 1
    _ = .next (u.popMove.writeBytes Config.programBase (b1 :: b2 :: rest)) := runMoves_succ atLoad
  exact ⟨_, run, hu.pc, hu.latch, word, congrArg List.tail loadNext⟩

end Sys2Proof.Machine
end

section
/-! PROOFS. The decoder against the encoder and against the opcode map (30_encoding.md R38, R41 to R43): decode and encode
are inverse to each other, the rows of the map are disjoint, and the choice by family and selector is the choice by mask
and match. -/

namespace Sys2Proof.Laws.MatchesRow

/-- The encoding of every instruction matches its own row. -/
theorem every : ∀ i : Instr, Statement i
  | .cls => cls | .ret => ret | .jp _ => jp _ | .call _ => call _ | .seImm _ _ => seImm _ _
  | .sneImm _ _ => sneImm _ _ | .seReg _ _ => seReg _ _ | .ldImm _ _ => ldImm _ _ | .addImm _ _ => addImm _ _
  | .ldReg _ _ => ldReg _ _ | .orReg _ _ => orReg _ _ | .andReg _ _ => andReg _ _ | .xorReg _ _ => xorReg _ _
  | .addReg _ _ => addReg _ _ | .subReg _ _ => subReg _ _ | .shr _ _ => shr _ _ | .subnReg _ _ => subnReg _ _
  | .shl _ _ => shl _ _ | .sneReg _ _ => sneReg _ _ | .ldI _ => ldI _ | .jpV0 _ => jpV0 _ | .rnd _ _ => rnd _ _
  | .drw _ _ _ => drw _ _ _ | .skp _ => skp _ | .sknp _ => sknp _ | .ldVxDT _ => ldVxDT _ | .ldVxK _ => ldVxK _
  | .ldDTVx _ => ldDTVx _ | .ldSTVx _ => ldSTVx _ | .addI _ => addI _ | .ldF _ => ldF _ | .ldB _ => ldB _
  | .storeRegs _ => storeRegs _ | .loadRegs _ => loadRegs _

end Sys2Proof.Laws.MatchesRow

namespace Sys2Proof

/-! ## The decoder as the choice on a word's fields -/

/-- The six fields of a word (R38). -/
def fieldsOf (w : Word) : Fields := decodeFields (highByte w) (lowByte w)

theorem fieldsOf_append (b1 b2 : Byte) : fieldsOf (b1 ++ b2) = decodeFields b1 b2 := by
  rw [fieldsOf, highByte_append, lowByte_append]

theorem decodeWord_eq_ok_iff {w : Word} {i : Instr} : decodeWord w = .ok i ↔ select (fieldsOf w) = some i := by
  rw [decodeWord, ← fieldsOf]
  cases select (fieldsOf w) <;> simp

theorem decodeWord_eq_error_iff {w : Word} :
    decodeWord w = .error (.unknownInstruction w) ↔ select (fieldsOf w) = none := by
  rw [decodeWord, ← fieldsOf]
  cases select (fieldsOf w) <;> simp

/-- Every word decodes or is rejected by name, with the word itself (R43). -/
theorem decodeWord_cases (w : Word) :
    (∃ i, decodeWord w = .ok i) ∨ decodeWord w = .error (.unknownInstruction w) := by
  simp only [decodeWord_eq_ok_iff, decodeWord_eq_error_iff]
  cases select (fieldsOf w) with
  | none => exact .inr rfl
  | some i => exact .inl ⟨i, rfl⟩

/-- Settles O1. -/
theorem sampleWordsDecode : Obligations.SampleWordsDecode := by
  unfold Obligations.SampleWordsDecode
  decide

/-! ## Decode and encode -/

theorem decodeWord_of_fields {w : Word} {f : Fields} {i : Instr} (hf : fieldsOf w = f) (hi : select f = some i) :
    decodeWord w = .ok i := by
  rw [decodeWord_eq_ok_iff, hf, hi]

/-- Settles O2: each format's fields are the operands and the selector that the encoder put there (R39), and the choice
on them is the instruction. -/
theorem decodeOfEncodeIsTheInstruction : Obligations.DecodeOfEncodeIsTheInstruction := by
  intro i
  cases i with
  | cls | ret => rfl
  | jp nnn | call nnn | ldI nnn | jpV0 nnn => exact decodeWord_of_fields (decodeFields_formatA ..) rfl
  | seImm x nn | sneImm x nn | ldImm x nn | addImm x nn | rnd x nn =>
    exact decodeWord_of_fields (decodeFields_formatI ..) rfl
  | skp x | sknp x | ldVxDT x | ldVxK x | ldDTVx x | ldSTVx x | addI x | ldF x | ldB x | storeRegs x | loadRegs x =>
    exact decodeWord_of_fields (decodeFields_formatI ..) rfl
  | seReg x y | ldReg x y | orReg x y | andReg x y | xorReg x y | addReg x y | subReg x y | shr x y | subnReg x y
  | shl x y | sneReg x y | drw x y n => exact decodeWord_of_fields (decodeFields_formatR ..) rfl

/-- Settles O3: the fields that the choice kept make up the whole word. -/
theorem encodeOfDecodeIsTheWord : Obligations.EncodeOfDecodeIsTheWord := fun _ _ h => encode_of_decodeWord h

/-! ## The rows of the opcode map -/

theorem Row.admits_iff {r : Row} {w : Word} : r.admits w = true ↔ w &&& r.mask = r.pattern := beq_iff_eq

/-- Two rows that admit one word agree on the bits that both masks keep. -/
theorem Row.patterns_agree {a b : Row} {w : Word} (ha : a.admits w = true) (hb : b.admits w = true) :
    a.pattern &&& b.mask = b.pattern &&& a.mask := by
  rw [← Row.admits_iff.1 ha, ← Row.admits_iff.1 hb, BitVec.and_assoc, BitVec.and_assoc, BitVec.and_comm a.mask]

/-- Any two rows of the map differ in a bit that both masks keep. -/
theorem opcodeTable_patterns_differ :
    opcodeTable.Pairwise fun a b => a.pattern &&& b.mask ≠ b.pattern &&& a.mask := by decide

/-- Settles O5. -/
theorem opcodeRowsAreDisjoint : Obligations.OpcodeRowsAreDisjoint :=
  opcodeTable_patterns_differ.imp fun differ _ ⟨ha, hb⟩ => differ (Row.patterns_agree ha hb)

/-! ## The illegal words -/

/-- The fields of an illegal word: the six lines of R43's table. -/
def Fields.Illegal (f : Fields) : Prop :=
  (f.op = 0 ∧ f.nnn ≠ 0x0E0 ∧ f.nnn ≠ 0x0EE) ∨ (f.op = 5 ∧ f.n ≠ 0) ∨
  (f.op = 8 ∧ (f.n = 8 ∨ f.n = 9 ∨ f.n = 10 ∨ f.n = 11 ∨ f.n = 12 ∨ f.n = 13 ∨ f.n = 15)) ∨
  (f.op = 9 ∧ f.n ≠ 0) ∨ (f.op = 14 ∧ f.nn ≠ 0x9E ∧ f.nn ≠ 0xA1) ∨
  (f.op = 15 ∧ f.nn ≠ 0x07 ∧ f.nn ≠ 0x0A ∧ f.nn ≠ 0x15 ∧ f.nn ≠ 0x18 ∧ f.nn ≠ 0x1E ∧ f.nn ≠ 0x29 ∧
    f.nn ≠ 0x33 ∧ f.nn ≠ 0x55 ∧ f.nn ≠ 0x65)

theorem selectZero_eq_none_iff {f : Fields} : selectZero f = none ↔ f.nnn ≠ 0x0E0 ∧ f.nnn ≠ 0x0EE := by
  unfold selectZero
  split <;> simp_all

/-- Of the sixteen nibbles, family 8 leaves seven. -/
theorem selectEight_eq_none_iff {f : Fields} : selectEight f = none ↔
    f.n = 8 ∨ f.n = 9 ∨ f.n = 10 ∨ f.n = 11 ∨ f.n = 12 ∨ f.n = 13 ∨ f.n = 15 := by
  unfold selectEight
  split
  case h_10 =>
    generalize f.n = n at *
    revert n
    decide
  all_goals simp [*]

theorem selectE_eq_none_iff {f : Fields} : selectE f = none ↔ f.nn ≠ 0x9E ∧ f.nn ≠ 0xA1 := by
  unfold selectE
  split <;> simp_all

theorem selectF_eq_none_iff {f : Fields} : selectF f = none ↔
    f.nn ≠ 0x07 ∧ f.nn ≠ 0x0A ∧ f.nn ≠ 0x15 ∧ f.nn ≠ 0x18 ∧ f.nn ≠ 0x1E ∧ f.nn ≠ 0x29 ∧ f.nn ≠ 0x33 ∧
      f.nn ≠ 0x55 ∧ f.nn ≠ 0x65 := by
  unfold selectF
  split <;> simp_all

/-- The choice finds nothing exactly on the fields of R43's table, family by family. -/
theorem select_eq_none_iff {f : Fields} : select f = none ↔ f.Illegal := by
  unfold select Fields.Illegal
  split
  case h_1 op => simp [op, selectZero_eq_none_iff]
  case h_9 op => simp [op, selectEight_eq_none_iff]
  case h_15 op => simp [op, selectE_eq_none_iff]
  case h_16 op => simp [op, selectF_eq_none_iff]
  case h_17 =>
    exfalso
    generalize f.op = op at *
    revert op
    decide
  all_goals
    rename_i op
    simp [op]

/-- Settles O6: a word is rejected when the choice on its fields finds nothing. -/
theorem illegalWordsAreTheListedOnes : Obligations.IllegalWordsAreTheListedOnes := by
  intro b1 b2
  rw [decodeWord_eq_error_iff, fieldsOf_append]
  exact select_eq_none_iff

/-! ## Mask and match

A mask acts on each field of a word by itself. -/

theorem fieldsOf_and_op (w m : Word) : (fieldsOf (w &&& m)).op = (fieldsOf w).op &&& (fieldsOf m).op := by
  simp [fieldsOf, decodeFields, highNibble, highByte, BitVec.extractLsb'_and]

theorem fieldsOf_and_n (w m : Word) : (fieldsOf (w &&& m)).n = (fieldsOf w).n &&& (fieldsOf m).n := by
  simp [fieldsOf, decodeFields, lowNibble, lowByte, BitVec.extractLsb'_and]

theorem fieldsOf_and_nn (w m : Word) : (fieldsOf (w &&& m)).nn = (fieldsOf w).nn &&& (fieldsOf m).nn :=
  BitVec.extractLsb'_and

theorem fieldsOf_and_nnn (w m : Word) : (fieldsOf (w &&& m)).nnn = (fieldsOf w).nnn &&& (fieldsOf m).nnn := by
  simp only [fieldsOf, decodeFields, lowNibble, highByte, lowByte, BitVec.extractLsb'_and]
  exact BitVec.and_append.symm

/-- The mask keeps all that the choice by family and selector reads of a word in the family of `op` (R41). -/
def KeepsSelector (mask : Word) (op : BitVec 4) : Prop :=
  (fieldsOf mask).op = .allOnes 4 ∧ (op = 0 → (fieldsOf mask).nnn = .allOnes 12) ∧
  (op = 5 ∨ op = 8 ∨ op = 9 → (fieldsOf mask).n = .allOnes 4) ∧
  (op = 14 ∨ op = 15 → (fieldsOf mask).nn = .allOnes 8)

/-- Each row's mask is that of its family (R41, R42). -/
theorem opcodeTable_keepsSelector : ∀ r ∈ opcodeTable, KeepsSelector r.mask (fieldsOf r.pattern).op := by
  unfold KeepsSelector
  decide

theorem opcodeTable_patterns_decode : ∀ r ∈ opcodeTable, select (fieldsOf r.pattern) ≠ none := by decide

/-- Fields that agree on all that the choice by family and selector reads (R41). -/
structure Fields.SameSelector (f g : Fields) : Prop where
  op     : f.op = g.op
  whole  : f.op = 0 → f.nnn = g.nnn
  nibble : f.op = 5 ∨ f.op = 8 ∨ f.op = 9 → f.n = g.n
  byte   : f.op = 14 ∨ f.op = 15 → f.nn = g.nn

theorem sameSelector_and {w m : Word} (keeps : KeepsSelector m (fieldsOf (w &&& m)).op) :
    (fieldsOf w).SameSelector (fieldsOf (w &&& m)) := by
  obtain ⟨family, whole, nibble, byte⟩ := keeps
  have op : (fieldsOf (w &&& m)).op = (fieldsOf w).op := by rw [fieldsOf_and_op, family, BitVec.and_allOnes]
  rw [op] at whole nibble byte
  exact {
    op := op.symm
    whole := fun h => by rw [fieldsOf_and_nnn, whole h, BitVec.and_allOnes]
    nibble := fun h => by rw [fieldsOf_and_n, nibble h, BitVec.and_allOnes]
    byte := fun h => by rw [fieldsOf_and_nn, byte h, BitVec.and_allOnes] }

/-- R43's table reads no more than the choice does. -/
theorem Fields.SameSelector.illegal {f g : Fields} (same : f.SameSelector g) (h : f.Illegal) : g.Illegal := by
  obtain ⟨sameOp, whole, nibble, byte⟩ := same
  refine h.imp ?zero (.imp ?five (.imp ?eight (.imp ?nine (.imp ?e ?f)))) <;> rintro ⟨op, selector⟩ <;>
    refine ⟨sameOp ▸ op, ?_⟩
  case zero => exact whole op ▸ selector
  case five => exact nibble (.inl op) ▸ selector
  case eight => exact nibble (.inr (.inl op)) ▸ selector
  case nine => exact nibble (.inr (.inr op)) ▸ selector
  case e => exact byte (.inl op) ▸ selector
  case f => exact byte (.inr op) ▸ selector

theorem canonicalWord_iff {w : Word} : canonicalWord w = true ↔ ∃ r ∈ opcodeTable, r.admits w = true :=
  List.any_eq_true

/-- A word that decodes is the encoding of its instruction, which matches its own row. -/
theorem row_of_decodeWord {w : Word} {i : Instr} (h : decodeWord w = .ok i) :
    ∃ r ∈ opcodeTable, r.number = i.rowNumber ∧ r.admits w = true :=
  encode_of_decodeWord h ▸ Laws.MatchesRow.every i

/-- A word that a row admits agrees with the row's match on family and selector, and the match is legal. -/
theorem select_ne_none_of_admits {w : Word} {r : Row} (hr : r ∈ opcodeTable) (h : r.admits w = true) :
    select (fieldsOf w) ≠ none := by
  have keeps := opcodeTable_keepsSelector r hr
  have legal := opcodeTable_patterns_decode r hr
  rw [← Row.admits_iff.1 h] at keeps legal
  rw [ne_eq, select_eq_none_iff] at legal ⊢
  exact fun illegal => legal ((sameSelector_and keeps).illegal illegal)

theorem decodeWord_of_canonicalWord {w : Word} (h : canonicalWord w = true) : ∃ i, decodeWord w = .ok i := by
  obtain ⟨r, hr, admits⟩ := canonicalWord_iff.1 h
  exact (decodeWord_cases w).resolve_right fun rejected =>
    select_ne_none_of_admits hr admits (decodeWord_eq_error_iff.1 rejected)

theorem canonicalWord_of_decodeWord {w : Word} {i : Instr} (h : decodeWord w = .ok i) : canonicalWord w = true := by
  obtain ⟨r, hr, -, admits⟩ := row_of_decodeWord h
  exact canonicalWord_iff.2 ⟨r, hr, admits⟩

/-- Settles O4. -/
theorem selectionAgreesWithMaskAndMatch : Obligations.SelectionAgreesWithMaskAndMatch := by
  intro w
  refine ⟨fun _ => row_of_decodeWord, decodeWord_of_canonicalWord, fun notCanonical => ?_⟩
  refine (decodeWord_cases w).resolve_left fun ⟨i, decodes⟩ => ?_
  exact Bool.noConfusion (notCanonical.symm.trans (canonicalWord_of_decodeWord decodes))

end Sys2Proof
end

section
/-! PROOFS. The step cycle (40_step_cycle.md R47, R48, R51 to R53): the outcomes of one step, the faults of the call
stack and of the key skips, and the register skips. -/

namespace Sys2Proof.Machine

/-! ## The driver's step -/

section

variable {s : State} (hm : s.nextMove = .step)
include hm

/-- A halted step takes the driver's move and does nothing else (R47, R100). -/
theorem step_halted (hf : s.fault ≠ none) : step s = .next s.popMove := by
  obtain ⟨r, hr⟩ := Option.ne_none_iff_exists'.1 hf
  rw [step_instruction hm, instructionStep_halted (s := s.popMove) hr]

theorem step_running (hf : s.fault = none) : step s = runInstruction s.popMove := by
  rw [step_instruction hm, instructionStep_running (s := s.popMove) hf]

end

/-- Taking the driver's move changes the model's own account of the moves alone (logs 6, 7). -/
theorem popMove_unchanged (s : State) : Unchanged s s.popMove [.schedule, .stepped] := by
  intro p hp
  obtain ⟨notSchedule, notStepped⟩ : p ≠ .schedule ∧ p ≠ .stepped := by simpa using hp
  exact popMove_same notSchedule notStepped s

/-- A step that latches a fault changes the latch and the account of the moves alone (R53, R100). -/
theorem popMove_takeFault_unchanged (s : State) (c : Cause) (w : Option Word) :
    Unchanged s (s.popMove.takeFault c w) [.latch, .schedule, .stepped] := by
  intro p hp
  obtain ⟨notLatch, notMove⟩ := not_or.1 (mt List.mem_cons.2 hp)
  exact (popMove_unchanged s p notMove).trans (takeFault_same notLatch s.popMove c w)

/-- Settles O7: with both bytes at PC in memory, the step runs what they decode to. -/
theorem stepRunsTheDecodedInstruction : Obligations.StepRunsTheDecodedInstruction := by
  intro s i hm hf hp hd
  rw [step_running hm hf]
  exact runInstruction_legal (s := s.popMove) hp hd

/-- Settles O8: a word that no row admits is one the decoder rejects. -/
theorem illegalWordLatchesUnknownInstruction : Obligations.IllegalWordLatchesUnknownInstruction := by
  rintro s w hm hf hp rfl illegal
  have rejected := (selectionAgreesWithMaskAndMatch _).2.2 illegal
  refine ⟨_, ?_, rfl, popMove_takeFault_unchanged s _ _⟩
  rw [step_running hm hf]
  exact runInstruction_illegal (s := s.popMove) hp rejected

/-- Settles O9: of the two addresses PC and PC + 1, the first out of range is the larger of PC and 0x1000. -/
theorem fetchOutOfRangeLatchesMemOutOfBounds : Obligations.FetchOutOfRangeLatchesMemOutOfBounds := by
  intro s hm hf hp
  have beyond : ¬ s.popMove.fetchable := Nat.not_lt.2 (Nat.succ_le_succ hp)
  have first : (if s.pc.toNat = 0xFFF then 0x1000 else s.pc.toNat) = max s.pc.toNat 4096 := by split <;> omega
  refine ⟨_, ?_, popMove_takeFault_unchanged s _ _, by rw [first]; rfl⟩
  rw [step_running hm hf]
  exact runInstruction_fetchFault beyond

/-- Settles O10. -/
theorem haltedStepHasNoEffect : Obligations.HaltedStepHasNoEffect :=
  fun s hm hf => ⟨_, step_halted hm hf, popMove_unchanged s⟩

/-! ## Faults of the call stack and of the key skips -/

theorem stackFull_iff {s : State} : s.stackFull = true ↔ s.params.stackDepth = some s.stack.length := beq_iff_eq

/-- Settles O20: a call does not complete on a full stack, nor a return on an empty one. -/
theorem stackFaultsLatchAndChangeNothingElse : Obligations.StackFaultsLatchAndChangeNothingElse := by
  intro nnn s
  refine ⟨fun full => ?_, fun empty => ?_⟩
  · have stuck : ¬ completes (.call nnn) s := ne_false_of_eq_true (stackFull_iff.2 full)
    exact (exec_raises_latch stuck).imp fun _ ⟨ht, frame, latch⟩ => ⟨ht, latch, frame⟩
  · have stuck : ¬ completes .ret s := not_not.2 empty
    exact (exec_raises_latch stuck).imp fun _ ⟨ht, frame, latch⟩ => ⟨ht, latch, frame⟩

/-- Settles O47: the key skips complete only on a value that names a key. -/
theorem keySkipsAboveFifteenLatchBadKeyIndex : Obligations.KeySkipsAboveFifteenLatchBadKeyIndex := by
  intro x s above
  have noKey : ¬ (s.getV x).toNat < 16 := Nat.not_lt.2 above
  exact ⟨exec_raises_latch (i := .skp x) noKey, exec_raises_latch (i := .sknp x) noKey⟩

/-! ## Skips -/

/-- An instruction that completes by writing PC alone. -/
theorem exec_sets_pc {i : Instr} {s : State} {w : Word} (hc : completes i s) (h : completed i s = s.setPc w) :
    ∃ t, exec i s = .next t ∧ t.pc = w ∧ Unchanged s t [.pc] :=
  ⟨s.setPc w, h ▸ exec_completes hc, rfl, (unchanged_setPc (by simp)).2 (.refl s _)⟩

/-- Settles O23: PC is the only write, and the two conditions are each other's negation. -/
theorem registerSkips : Obligations.RegisterSkips := by
  intro x y s
  constructor
  · exact exec_sets_pc (i := .seReg x y) trivial (by simp [completed])
  · exact exec_sets_pc (i := .sneReg x y) trivial (by simp [completed])

end Sys2Proof.Machine
end

section
/-! PROOFS. Control transfer (41_flow.md R55 to R59, R62): the jumps, call and return, and the immediate skips. -/

namespace Sys2Proof.Machine

/-! ## Jumps -/

/-- Settles O17: NNN as a word is the target, and PC is the only write. -/
theorem jumpGoesToItsAddress : Obligations.JumpGoesToItsAddress := by
  intro nnn s
  refine ⟨decodeOfEncodeIsTheInstruction (.jp nnn), ?_, fun self => ?_⟩
  · obtain ⟨t, ht, hpc, frame⟩ := exec_sets_pc (i := .jp nnn) (s := s) trivial rfl
    exact ⟨t, ht, hpc ▸ addressWord_toNat nnn, frame⟩
  · have target : addressWord nnn = s.pc := BitVec.eq_of_toNat_eq ((addressWord_toNat nnn).trans self.symm)
    rw [exec_completes (i := .jp nnn) trivial, completed, target, State.setPc_same]

/-- NNN + V0 is below 2^16: the sum of `BNNN` never wraps (R62). -/
theorem addressWord_add_byteWord_toNat (nnn : BitVec 12) (v : Byte) :
    (addressWord nnn + byteWord v).toNat = nnn.toNat + v.toNat := by
  rw [BitVec.toNat_add, addressWord_toNat, byteWord_toNat]
  exact Nat.mod_eq_of_lt (by omega)

/-- Settles O24: PC is the only write, and 16 bits hold the sum. -/
theorem jumpWithOffsetAddsV0 : Obligations.JumpWithOffsetAddsV0 := by
  intro nnn s
  obtain ⟨t, ht, hpc, frame⟩ := exec_sets_pc (i := .jpV0 nnn) (s := s) trivial rfl
  exact ⟨t, ht, hpc ▸ addressWord_add_byteWord_toNat nnn (s.getV 0), frame⟩

/-! ## Call and return -/

theorem completes_call_iff {nnn : BitVec 12} {s : State} :
    completes (.call nnn) s ↔ s.params.stackDepth ≠ some s.stack.length :=
  Bool.eq_false_iff.trans stackFull_iff.not

/-- Call and return write PC and the call stack alone. -/
theorem unchanged_setStack_setPc (s : State) (ws : List Word) (w : Word) :
    Unchanged s ((s.setStack ws).setPc w) [.pc, .stack] :=
  (unchanged_setPc (by simp)).2 ((unchanged_setStack (by simp)).2 (.refl s _))

/-- Settles O18: a call completes exactly when the stack is not full. -/
theorem callPushesTheReturnAddress : Obligations.CallPushesTheReturnAddress := fun nnn s room =>
  ⟨completed (.call nnn) s, exec_completes (completes_call_iff.2 room), rfl, addressWord_toNat nnn,
    unchanged_setStack_setPc s _ _⟩

/-- Settles O19: the last element of the stack is the target, and the list without it is left. -/
theorem returnGoesToTheNewestEntry : Obligations.ReturnGoesToTheNewestEntry := by
  intro older newest s hs
  have nonempty : completes .ret s := by simp [completes, hs]
  have target : s.top.getD 0 = newest := by simp [State.top, hs]
  have left : s.stack.dropLast = older := by simp [hs]
  exact ⟨completed .ret s, exec_completes nonempty, target, left, unchanged_setStack_setPc s _ _⟩

/-- Settles O21: the call pushed the advanced PC on the stack it found, so the return pops that entry. -/
theorem returnResumesAfterTheCall : Obligations.ReturnResumesAfterTheCall := by
  intro nnn s t u room called sameStack
  obtain ⟨t', called', pushed, -, -⟩ := callPushesTheReturnAddress nnn s room
  obtain rfl : t' = t := by simpa using called'.symm.trans called
  exact returnGoesToTheNewestEntry s.stack (s.pc + 2) u (sameStack.trans pushed)

/-! ## Immediate skips -/

/-- Settles O22: PC is the only write, and the two conditions are each other's negation. -/
theorem immediateSkips : Obligations.ImmediateSkips := by
  intro x nn s
  refine ⟨decodeOfEncodeIsTheInstruction (.seImm x nn), decodeOfEncodeIsTheInstruction (.sneImm x nn), ?_, ?_⟩
  · exact exec_sets_pc (i := .seImm x nn) trivial (by simp [completed])
  · exact exec_sets_pc (i := .sneImm x nn) trivial (by simp [completed])

end Sys2Proof.Machine
end

section
/-! PROOFS. The ALU (42_alu.md R63 to R75): load, add, copy and logic write Vx alone; the arithmetic and the shifts write
Vx and the flag, each in its own order (R64). -/

namespace Sys2Proof.Machine

/-! ## Instructions that write Vx alone -/

/-- An instruction that completes by the advance and one write to Vx. -/
theorem exec_sets_reg {i : Instr} {s : State} {x : Reg} {v : Byte} (hc : completes i s)
    (h : completed i s = (s.setPc (s.pc + 2)).setV x v) :
    ∃ t, exec i s = .next t ∧ t.getV x = v ∧ t.pc = s.pc + 2 ∧ Unchanged s t [.pc, .reg x] :=
  ⟨_, h ▸ exec_completes hc, State.setV_getV_same _ x v, rfl, by simp [Unchanged.refl]⟩

/-- Settles O25. -/
theorem loadImmediate : Obligations.LoadImmediate := fun x nn _ =>
  ⟨decodeOfEncodeIsTheInstruction (.ldImm x nn), exec_sets_reg (i := .ldImm x nn) trivial rfl⟩

/-- Settles O26: the sum of two bytes is taken modulo 256. -/
theorem addImmediateWrapsWithoutFlag : Obligations.AddImmediateWrapsWithoutFlag := by
  intro x nn s
  obtain ⟨t, ht, hv, hpc, frame⟩ := exec_sets_reg (i := .addImm x nn) (s := s) trivial rfl
  exact ⟨decodeOfEncodeIsTheInstruction (.addImm x nn), t, ht, hv ▸ BitVec.toNat_add _ _, hpc, frame⟩

/-- Settles O27. -/
theorem copyRegister : Obligations.CopyRegister := fun x y _ =>
  ⟨decodeOfEncodeIsTheInstruction (.ldReg x y), exec_sets_reg (i := .ldReg x y) trivial rfl⟩

/-- Settles O28: each operation on bytes acts bit by bit. -/
theorem logicIsBitwiseWithoutFlag : Obligations.LogicIsBitwiseWithoutFlag := by
  intro x y s
  refine ⟨?or, ?and, ?xor⟩
  case or =>
    obtain ⟨t, ht, hv, hpc, frame⟩ := exec_sets_reg (i := .orReg x y) (s := s) trivial rfl
    exact ⟨t, ht, fun _ _ => hv ▸ BitVec.getLsbD_or, hpc, frame⟩
  case and =>
    obtain ⟨t, ht, hv, hpc, frame⟩ := exec_sets_reg (i := .andReg x y) (s := s) trivial rfl
    exact ⟨t, ht, fun _ _ => hv ▸ BitVec.getLsbD_and, hpc, frame⟩
  case xor =>
    obtain ⟨t, ht, hv, hpc, frame⟩ := exec_sets_reg (i := .xorReg x y) (s := s) trivial rfl
    exact ⟨t, ht, fun _ _ => hv ▸ BitVec.getLsbD_xor, hpc, frame⟩

/-! ## The result, then the flag -/

/-- An instruction that completes by the advance, the result to Vx, then the flag to VF: VF holds the flag for every x,
and the result is lost when x is F (R64, D9). -/
theorem exec_sets_reg_then_flag {i : Instr} {s : State} {x : Reg} {result flag : Byte} (hc : completes i s)
    (h : completed i s = ((s.setPc (s.pc + 2)).setV x result).setV VF flag) :
    ∃ t, exec i s = .next t ∧ t.getV VF = flag ∧ (x ≠ VF → t.getV x = result) ∧ t.pc = s.pc + 2 ∧
      Unchanged s t [.pc, .reg x, .reg VF] :=
  ⟨_, h ▸ exec_completes hc, State.setV_getV_same _ VF flag, fun hx => by simp [hx], rfl, by simp [Unchanged.refl]⟩

/-- Settles O29: the carry is 1 exactly when the natural sum exceeds 255. -/
theorem addWritesCarry : Obligations.AddWritesCarry := by
  intro x y s
  obtain ⟨t, ht, hflag, hv, hpc, frame⟩ := exec_sets_reg_then_flag (i := .addReg x y) (s := s) trivial rfl
  exact ⟨t, ht, hflag.trans (carryFlag_eq _ _), fun hx => hv hx ▸ BitVec.toNat_add _ _, hpc, frame⟩

/-- A difference of bytes is the natural difference modulo 256, with 256 lent to the minuend (R72, R74). -/
theorem byte_sub_toNat (a b : Byte) : (a - b).toNat = (256 + a.toNat - b.toNat) % 256 := by
  have lt := b.isLt
  rw [BitVec.toNat_sub]
  omega

/-- An instruction that completes with the difference `a` − `b` in Vx, then no-borrow in VF (R72, R74). -/
theorem exec_subtracts {i : Instr} {s : State} {x : Reg} {a b : Byte} (hc : completes i s)
    (h : completed i s = ((s.setPc (s.pc + 2)).setV x (a - b)).setV VF (noBorrowFlag a b)) :
    ∃ t, exec i s = .next t ∧ t.getV VF = (if b.toNat ≤ a.toNat then 1 else 0) ∧
      (x ≠ VF → (t.getV x).toNat = (256 + a.toNat - b.toNat) % 256) ∧
      t.pc = s.pc + 2 ∧ Unchanged s t [.pc, .reg x, .reg VF] := by
  obtain ⟨t, ht, hflag, hv, hpc, frame⟩ := exec_sets_reg_then_flag hc h
  exact ⟨t, ht, hflag.trans (noBorrowFlag_eq a b), fun hx => hv hx ▸ byte_sub_toNat a b, hpc, frame⟩

/-- Settles O30: the two instructions differ in which register is the minuend. -/
theorem subtractWritesNoBorrow : Obligations.SubtractWritesNoBorrow := fun x y _ =>
  ⟨exec_subtracts (i := .subReg x y) trivial rfl, exec_subtracts (i := .subnReg x y) trivial rfl⟩

/-! ## The flag, then the shift -/

/-- An instruction that completes by the advance, the flag to VF, then the shift of Vx as it reads by then: with x = F
the shift is of the flag (R64, D9). -/
theorem exec_flagThenShift {i : Instr} {s : State} {x : Reg} {flag : Byte} {shift : Byte → Byte} (hc : completes i s)
    (h : completed i s = (s.setPc (s.pc + 2)).flagThenShift x flag shift) :
    ∃ t, exec i s = .next t ∧ (x ≠ VF → t.getV x = shift (s.getV x) ∧ t.getV VF = flag) ∧
      (x = VF → t.getV VF = shift flag) ∧ t.pc = s.pc + 2 ∧ Unchanged s t [.pc, .reg x, .reg VF] := by
  refine ⟨_, h ▸ exec_completes hc, fun hx => ⟨?_, flagThenShift_getV_VF hx _ _ _⟩, ?_, rfl, ?_⟩
  · simp [State.flagThenShift, hx]
  · rintro rfl
    simp [State.flagThenShift]
  · simp [State.flagThenShift, Unchanged.refl]

theorem shiftRightOut_toNat (a : Byte) : (shiftRightOut a).toNat = a.toNat % 2 := by
  simp [shiftRightOut, Nat.and_one_is_mod]

theorem shiftLeftOut_toNat (a : Byte) : (shiftLeftOut a).toNat = a.toNat / 128 := by
  simp [shiftLeftOut, Nat.shiftRight_eq_div_pow]

theorem byte_shiftRight_one_toNat (a : Byte) : (a >>> 1).toNat = a.toNat / 2 := by
  simp [Nat.shiftRight_eq_div_pow]

theorem byte_shiftLeft_one_toNat (a : Byte) : (a <<< 1).toNat = a.toNat * 2 % 256 := by
  simp [Nat.shiftLeft_eq]

/-- A flag halved is 0: shifting right loses the bit just written (D9). -/
theorem shiftRightOut_shiftRight_one (a : Byte) : shiftRightOut a >>> 1 = 0 := by
  rcases shiftRightOut_eq_zero_or_one a with h | h <;> rw [h] <;> rfl

/-- A flag doubled is below 256: shifting left keeps the bit just written (D9). -/
theorem shiftLeftOut_shiftLeft_one_toNat (a : Byte) : (shiftLeftOut a <<< 1).toNat = a.toNat / 128 * 2 := by
  have lt := a.isLt
  rw [byte_shiftLeft_one_toNat, shiftLeftOut_toNat]
  omega

/-- Settles O31: with x = F the shift is of the flag just written, the bit that left Vx. -/
theorem shiftsWriteTheBitShiftedOut : Obligations.ShiftsWriteTheBitShiftedOut := by
  intro x y s
  constructor
  · obtain ⟨t, ht, apart, same, hpc, frame⟩ := exec_flagThenShift (s := s) (shift := (· >>> 1))
      (i := .shr x y) trivial rfl
    refine ⟨t, ht, fun hx => ?_, fun hx => ?_, hpc, frame⟩
    · obtain ⟨hv, hflag⟩ := apart hx
      exact ⟨hv ▸ byte_shiftRight_one_toNat _, hflag ▸ shiftRightOut_toNat _⟩
    · exact (same hx).trans (shiftRightOut_shiftRight_one _)
  · obtain ⟨t, ht, apart, same, hpc, frame⟩ := exec_flagThenShift (s := s) (shift := (· <<< 1))
      (i := .shl x y) trivial rfl
    refine ⟨t, ht, fun hx => ?_, fun hx => ?_, hpc, frame⟩
    · obtain ⟨hv, hflag⟩ := apart hx
      exact ⟨hv ▸ byte_shiftLeft_one_toNat _, hflag ▸ shiftLeftOut_toNat _⟩
    · rw [same hx, hx]
      exact shiftLeftOut_shiftLeft_one_toNat _

end Sys2Proof.Machine
end

section
/-! PROOFS. Index register and memory transfers (43_index_mem.md R77 to R83): three instructions write I alone, two
store bytes at I, and `FX65` loads them back. -/

namespace Sys2Proof.Machine

/-! ## Instructions that write I -/

/-- An instruction that completes by the advance and one write to I. -/
theorem exec_sets_index {i : Instr} {s : State} {w : Word} (hc : completes i s)
    (h : completed i s = (s.setPc (s.pc + 2)).setI w) :
    ∃ t, exec i s = .next t ∧ t.I = w ∧ t.pc = s.pc + 2 ∧ Unchanged s t [.pc, .index] :=
  ⟨_, h ▸ exec_completes hc, rfl, rfl, by simp [Unchanged.refl]⟩

/-- Settles O34. -/
theorem loadIndex : Obligations.LoadIndex := by
  intro nnn s
  obtain ⟨t, ht, hI, hpc, frame⟩ := exec_sets_index (i := .ldI nnn) (s := s) trivial rfl
  exact ⟨decodeOfEncodeIsTheInstruction (.ldI nnn), t, ht, hI ▸ addressWord_toNat nnn, hpc, frame⟩

/-- Settles O35: the sum of two words is taken modulo 65536. -/
theorem addToIndexWrapsWithoutFlag : Obligations.AddToIndexWrapsWithoutFlag := by
  intro x s
  obtain ⟨t, ht, hI, hpc, frame⟩ := exec_sets_index (i := .addI x) (s := s) trivial rfl
  exact ⟨t, ht, by rw [hI, BitVec.toNat_add, byteWord_toNat], hpc, frame⟩

/-- 255 · 5 is below 2^16: the product of `FX29` never wraps (R80). -/
theorem byteWord_mul_five_toNat (v : Byte) : (byteWord v * 5).toNat = v.toNat * 5 := by
  have lt := v.isLt
  simp only [BitVec.toNat_mul, byteWord_toNat, BitVec.reduceToNat]
  omega

/-- Settles O36: 16 bits hold the product for every Vx. -/
theorem pointAtGlyph : Obligations.PointAtGlyph := by
  intro x s
  obtain ⟨t, ht, hI, hpc, frame⟩ := exec_sets_index (i := .ldF x) (s := s) trivial rfl
  exact ⟨decodeOfEncodeIsTheInstruction (.ldF x), t, ht, hI ▸ byteWord_mul_five_toNat _, hpc, frame⟩

/-! ## Stores at I -/

/-- An instruction that completes by the advance and a store of `vs` at I, with the range in memory. -/
theorem exec_stores {i : Instr} {s : State} {vs : List Byte} (hw : s.mem.wf s.params = true)
    (hs : s.base + vs.length ≤ 4096) (hc : completes i s) (h : completed i s = s.stored vs) :
    ∃ t, exec i s = .next t ∧ (∀ (k : Nat) (hk : k < vs.length), t.readByte (s.base + k) = vs[k]) ∧
      t.pc = s.pc + 2 ∧ Unchanged s t (.pc :: bytesAt s.base vs.length) :=
  ⟨s.stored vs, h ▸ exec_completes hc, fun _ hk => readByte_writeBytes_of_lt (s := s.setPc (s.pc + 2)) hw hs hk,
    rfl, stored_unchanged hw hs⟩

/-- Hundreds, tens and ones make up the byte (R81). -/
theorem decimalDigits_toNat (v : Byte) :
    (v / 100).toNat * 100 + (v / 10 % 10).toNat * 10 + (v % 10).toNat = v.toNat := by
  simp only [BitVec.toNat_udiv, BitVec.toNat_umod, BitVec.reduceToNat]
  omega

theorem byte_umod_ten_toNat_lt (v : Byte) : (v % 10).toNat < 10 := by
  rw [BitVec.toNat_umod]
  exact Nat.mod_lt _ (by decide)

/-- Settles O37: the three bytes stored are the digits. -/
theorem storeDecimalDigits : Obligations.StoreDecimalDigits := by
  intro x s hw hI
  have inRange : s.base + 3 ≤ 4096 := by rw [State.base]; omega
  obtain ⟨t, ht, stored, hpc, frame⟩ :=
    exec_stores (i := .ldB x) (vs := decimalDigits (s.getV x)) hw inRange inRange rfl
  have hundreds : t.readByte s.base = s.getV x / 100 := stored 0 (by decide : 0 < 3)
  have tens : t.readByte (s.base + 1) = s.getV x / 10 % 10 := stored 1 (by decide : 1 < 3)
  have ones : t.readByte (s.base + 2) = s.getV x % 10 := stored 2 (by decide : 2 < 3)
  refine ⟨t, ht, ?_, ?_, ?_, hpc, frame⟩
  · rw [hundreds, tens, ones]
    exact decimalDigits_toNat _
  · exact tens ▸ byte_umod_ten_toNat_lt _
  · exact ones ▸ byte_umod_ten_toNat_lt _

/-- Settles O38: the list stored holds Vk at position k. -/
theorem storeRegisters : Obligations.StoreRegisters := by
  intro x s hw hI
  have inRange : s.base + (x.val + 1) ≤ 4096 := hI
  have length : (s.regsUpTo x).length = x.val + 1 := length_regsUpTo s x
  obtain ⟨t, ht, stored, hpc, frame⟩ := exec_stores (i := .storeRegs x) hw (length ▸ inRange) inRange rfl
  refine ⟨t, ht, fun k hk => ?_, hpc, length ▸ frame⟩
  rw [stored k (length ▸ Nat.lt_succ_of_le hk), getElem_regsUpTo, Fin.ofNat_val_eq_self]

/-! ## Loads from I -/

/-- `FX65` writes PC and V0 to Vx alone, from any memory. -/
theorem loadRegs_unchanged (x : Reg) (s : State) : Unchanged s (completed (.loadRegs x) s) (.pc :: regsTo x) := by
  intro p hp
  by_cases hb : ∃ a, p = .byte a
  · obtain ⟨a, rfl⟩ := hb
    rfl
  · exact completed_same (i := .loadRegs x) (not_exists.1 hb) hp

/-- Settles O39. -/
theorem loadRegisters : Obligations.LoadRegisters := by
  intro x s hI
  refine ⟨_, exec_completes (i := .loadRegs x) hI, fun k hk => ?_, rfl, loadRegs_unchanged x s⟩
  exact (s.loadedRegs_get x k s.base).trans (if_pos hk)

/-- Settles O40: the store leaves I, so the load reads the bytes stored, and both leave the parts between them. -/
theorem storeThenLoadRoundTrips : Obligations.StoreThenLoadRoundTrips := by
  intro x s t u hw hI stored sameMem sameParams sameI
  obtain ⟨t', stored', bytes, -, storeFrame⟩ := storeRegisters x s hw hI
  obtain rfl : t' = t := by simpa using stored'.symm.trans stored
  have index : u.I = s.I := sameI.trans (storeFrame .index (by simp))
  obtain ⟨v, loaded, regs, -, loadFrame⟩ := loadRegisters x u (index ▸ hI)
  refine ⟨v, loaded, fun k hk => ?_, fun k hk => ?_, ?_⟩
  · have sameBytes (a : Nat) : u.readByte a = t'.readByte a := by
      rw [State.readByte, State.readByte, sameMem, sameParams]
    rw [regs k hk, sameBytes, State.base, index]
    exact bytes k hk
  · exact loadFrame (.reg k) (by simpa using hk)
  · exact Eq.trans (loadFrame .index (by simp)) index

end Sys2Proof.Machine
end

section
/-! PROOFS. `DXYN` (44_draw.md R85): the draw loop plots a list of distinct points, the points that the sprite covers; a
list of distinct points toggles each of its pixels once. -/

namespace Sys2Proof.Machine

/-! ## Points -/

/-- A pixel's row and column. -/
abbrev Point := Fin 32 × Fin 64

theorem pixel_toggle (fb : Framebuffer) (p q : Point) :
    (fb.toggle p.1 p.2).pixel q.1 q.2 = if q = p then !fb.pixel q.1 q.2 else fb.pixel q.1 q.2 := by
  obtain ⟨y, x⟩ := p
  obtain ⟨y', x'⟩ := q
  by_cases hy : y' = y
  · subst hy
    by_cases hx : x' = x
    · subst hx
      simp [Framebuffer.toggle, Framebuffer.pixel]
    · have ne : x.val ≠ x'.val := fun e => hx (Fin.ext e.symm)
      simp [Framebuffer.toggle, Framebuffer.pixel, hx, ne]
  · have ne : y.val ≠ y'.val := fun e => hy (Fin.ext e.symm)
    simp [Framebuffer.toggle, Framebuffer.pixel, hy, ne]

/-- Points plotted one after the other. -/
def Canvas.plotAll (c : Canvas) (ps : List Point) : Canvas := ps.foldl (fun c p => c.plot p.1 p.2) c

theorem Canvas.plotAll_cons (c : Canvas) (p : Point) (ps : List Point) :
    c.plotAll (p :: ps) = (c.plot p.1 p.2).plotAll ps := rfl

theorem Canvas.plotAll_append (c : Canvas) (ps qs : List Point) :
    c.plotAll (ps ++ qs) = (c.plotAll ps).plotAll qs := List.foldl_append

/-- Distinct points are toggled, once each, and the others are not. -/
theorem Canvas.plotAll_pixel {ps : List Point} (distinct : ps.Nodup) (c : Canvas) (q : Point) :
    (c.plotAll ps).1.pixel q.1 q.2 = if q ∈ ps then !c.1.pixel q.1 q.2 else c.1.pixel q.1 q.2 := by
  induction ps generalizing c with
  | nil => rfl
  | cons p ps ih =>
    obtain ⟨fresh, distinct⟩ := List.nodup_cons.1 distinct
    rw [plotAll_cons, ih distinct, plot, pixel_toggle]
    by_cases hp : q = p
    · simp [hp, fresh]
    · simp [hp]

/-- A collision is a point plotted that was set before: no point of the list unsets another. -/
theorem Canvas.plotAll_collided {ps : List Point} (distinct : ps.Nodup) (c : Canvas) :
    (c.plotAll ps).2 = true ↔ c.2 = true ∨ ∃ p ∈ ps, c.1.pixel p.1 p.2 = true := by
  induction ps generalizing c with
  | nil => simp [plotAll]
  | cons p ps ih =>
    obtain ⟨fresh, distinct⟩ := List.nodup_cons.1 distinct
    have before : ∀ q ∈ ps, (c.plot p.1 p.2).1.pixel q.1 q.2 = c.1.pixel q.1 q.2 := fun q hq => by
      rw [plot, pixel_toggle, if_neg (ne_of_mem_of_not_mem hq fresh)]
    have later : (∃ q ∈ ps, (c.plot p.1 p.2).1.pixel q.1 q.2 = true) ↔ ∃ q ∈ ps, c.1.pixel q.1 q.2 = true :=
      exists_congr fun q => and_congr_right fun hq => by rw [before q hq]
    rw [plotAll_cons, ih distinct, later, List.exists_mem_cons_iff, ← or_assoc]
    simp [plot]

/-! ## The points of a sprite -/

/-- The columns that a sprite row covers, on screen row `y`. -/
def rowPoints (vx : Nat) (y : Fin 32) (row : Byte) : List Point :=
  ((List.range 8).filter fun k => row.getLsbD (7 - k)).map fun k => (y, Fin.ofNat 64 (vx + k))

/-- The points that the rows of a sprite cover, top to bottom. -/
def spritePoints (vx : Nat) : Nat → List Byte → List Point
  | _, [] => []
  | vy, row :: rows => rowPoints vx (Fin.ofNat 32 vy) row ++ spritePoints vx (vy + 1) rows

theorem Canvas.drawRow_eq_plotAll (c : Canvas) (vx : Nat) (y : Fin 32) (row : Byte) :
    c.drawRow vx y row = c.plotAll (rowPoints vx y row) := by
  rw [plotAll, rowPoints, List.foldl_map, List.foldl_filter, drawRow]

theorem Canvas.drawRows_eq_plotAll (vx vy : Nat) (rows : List Byte) (c : Canvas) :
    Canvas.drawRows vx vy rows c = c.plotAll (spritePoints vx vy rows) := by
  induction rows generalizing vy c with
  | nil => rfl
  | cons row rows ih => rw [drawRows, ih, drawRow_eq_plotAll, spritePoints, plotAll_append]

theorem Framebuffer.draw_eq_plotAll (fb : Framebuffer) (vx vy : Byte) (rows : List Byte) :
    fb.draw vx vy rows = Canvas.plotAll (fb, false) (spritePoints vx.toNat vy.toNat rows) :=
  Canvas.drawRows_eq_plotAll ..

theorem mem_rowPoints {vx : Nat} {y : Fin 32} {row : Byte} {p : Point} :
    p ∈ rowPoints vx y row ↔ p.1 = y ∧ ∃ c < 8, row.getLsbD (7 - c) = true ∧ (vx + c) % 64 = p.2.val := by
  obtain ⟨y', x⟩ := p
  simp only [rowPoints, List.mem_map, List.mem_filter, List.mem_range, Prod.mk.injEq, Fin.ext_iff, Fin.val_ofNat]
  constructor
  · rintro ⟨c, ⟨hc, bit⟩, sameRow, column⟩
    exact ⟨sameRow.symm, c, hc, bit, column⟩
  · rintro ⟨sameRow, c, hc, bit, column⟩
    exact ⟨c, ⟨hc, bit⟩, sameRow.symm, column⟩

/-- The points are those of R85's formula: bit 7 − c of row r, at row vy + r and column vx + c of the screen. -/
theorem mem_spritePoints {vx vy : Nat} {rows : List Byte} {p : Point} :
    p ∈ spritePoints vx vy rows ↔ ∃ r, ∃ h : r < rows.length, ∃ c, c < 8 ∧ rows[r].getLsbD (7 - c) = true ∧
      (vx + c) % 64 = p.2.val ∧ (vy + r) % 32 = p.1.val := by
  induction rows generalizing vy with
  | nil => simp [spritePoints]
  | cons row rows ih =>
    rw [spritePoints, List.mem_append, mem_rowPoints, ih]
    constructor
    · rintro (⟨top, c, hc, bit, column⟩ | ⟨r, hr, c, hc, bit, column, below⟩)
      · exact ⟨0, Nat.succ_pos _, c, hc, bit, column, congrArg Fin.val top.symm⟩
      · exact ⟨r + 1, Nat.succ_lt_succ hr, c, hc, bit, column, by rw [← below, Nat.add_right_comm]; rfl⟩
    · rintro ⟨r, hr, c, hc, bit, column, screenRow⟩
      cases r with
      | zero => exact .inl ⟨Fin.ext screenRow.symm, c, hc, bit, column⟩
      | succ r =>
        rw [← Nat.add_assoc, Nat.add_right_comm] at screenRow
        exact .inr ⟨r, Nat.lt_of_succ_lt_succ hr, c, hc, bit, column, screenRow⟩

theorem spriteCovers_iff {vx vy : Byte} {rows : List Byte} {y : Fin 32} {x : Fin 64} :
    spriteCovers vx vy rows y x ↔ (y, x) ∈ spritePoints vx.toNat vy.toNat rows := by
  rw [mem_spritePoints]
  rfl

/-- The eight columns of a row are distinct modulo 64. -/
theorem nodup_rowPoints (vx : Nat) (y : Fin 32) (row : Byte) : (rowPoints vx y row).Nodup := by
  refine (List.nodup_range.filter _).map_on fun a ha b hb same => ?_
  have ha : a < 8 := List.mem_range.1 (List.mem_filter.1 ha).1
  have hb : b < 8 := List.mem_range.1 (List.mem_filter.1 hb).1
  have column : (vx + a) % 64 = (vx + b) % 64 := congrArg (fun p : Point => p.2.val) same
  omega

/-- Up to 32 rows lie on distinct screen rows, so no point is plotted twice (R85). -/
theorem nodup_spritePoints {vx vy : Nat} {rows : List Byte} (short : rows.length ≤ 32) :
    (spritePoints vx vy rows).Nodup := by
  induction rows generalizing vy with
  | nil => exact List.nodup_nil
  | cons row rows ih =>
    rw [List.length_cons] at short
    refine List.nodup_append'.2 ⟨nodup_rowPoints .., ih (by omega), fun p hrow hbelow => ?_⟩
    obtain ⟨top, -⟩ := mem_rowPoints.1 hrow
    obtain ⟨r, hr, -, -, -, -, below⟩ := mem_spritePoints.1 hbelow
    have sameRow : (vy + 1 + r) % 32 = vy % 32 := below.trans (congrArg Fin.val top)
    omega

/-! ## The closed form of the draw loop -/

section

variable {vx vy : Byte} {rows : List Byte} (short : rows.length ≤ 32)
include short

theorem Framebuffer.draw_pixel_covered {fb : Framebuffer} {y : Fin 32} {x : Fin 64}
    (covered : spriteCovers vx vy rows y x) : (fb.draw vx vy rows).1.pixel y x = !fb.pixel y x := by
  rw [draw_eq_plotAll]
  exact (Canvas.plotAll_pixel (nodup_spritePoints short) (fb, false) (y, x)).trans
    (if_pos (spriteCovers_iff.1 covered))

theorem Framebuffer.draw_pixel_uncovered {fb : Framebuffer} {y : Fin 32} {x : Fin 64}
    (uncovered : ¬ spriteCovers vx vy rows y x) : (fb.draw vx vy rows).1.pixel y x = fb.pixel y x := by
  rw [draw_eq_plotAll]
  exact (Canvas.plotAll_pixel (nodup_spritePoints short) (fb, false) (y, x)).trans
    (if_neg (mt spriteCovers_iff.2 uncovered))

theorem Framebuffer.draw_collided_iff {fb : Framebuffer} : (fb.draw vx vy rows).2 = true ↔
    ∃ (y : Fin 32) (x : Fin 64), spriteCovers vx vy rows y x ∧ fb.pixel y x = true := by
  rw [draw_eq_plotAll, Canvas.plotAll_collided (nodup_spritePoints short)]
  simp only [Bool.false_eq_true, false_or, Prod.exists, spriteCovers_iff]

end

/-! ## `DXYN` -/

theorem completes_drw_iff {x y : Reg} {n : BitVec 4} {s : State} :
    completes (.drw x y n) s ↔ n.toNat = 0 ∨ s.I.toNat + n.toNat - 1 < 4096 := by
  simp only [completes, State.base]
  omega

theorem length_readBytes_le (s : State) (a : Nat) (n : BitVec 4) : (s.readBytes a n.toNat).length ≤ 32 := by
  have lt := n.isLt
  rw [State.readBytes, List.length_map, List.length_range]
  omega

/-- Settles O44: the bytes at I are at most 15 rows, so the draw loop is its closed form. -/
theorem drawTogglesItsPixelsAndWritesCollision : Obligations.DrawTogglesItsPixelsAndWritesCollision := by
  intro x y n s inRange
  have short := length_readBytes_le s s.base n
  have flag : (completed (.drw x y n) s).getV VF =
      flagByte (s.fb.draw (s.getV x) (s.getV y) (s.readBytes s.base n.toNat)).2 := State.setV_getV_same ..
  refine ⟨_, exec_completes (completes_drw_iff.2 inRange), fun r c => ⟨?covered, ?uncovered⟩, fun hit => ?hit,
    fun miss => ?miss, rfl, ?frame⟩
  case covered => exact Framebuffer.draw_pixel_covered short
  case uncovered => exact Framebuffer.draw_pixel_uncovered short
  case hit => rw [flag, (Framebuffer.draw_collided_iff short).2 hit, flagByte, if_pos rfl]
  case miss => rw [flag, flagByte, if_neg (mt (Framebuffer.draw_collided_iff short).1 miss)]
  case frame => simp [completed, State.drawSprite, Unchanged.refl]

end Sys2Proof.Machine
end

section
/-! PROOFS. The framebuffer engine alone (44_draw.md R84 to R86): clearing, one draw against its closed form, and the
same sprite drawn twice. -/

namespace Sys2Proof.Machine

/-- Settles O42: the advance and the clear framebuffer are the only writes. -/
theorem clearUnsetsEveryPixel : Obligations.ClearUnsetsEveryPixel := fun s =>
  ⟨decodeOfEncodeIsTheInstruction .cls, completed .cls s, exec_completes trivial, clear_pixel, rfl,
    by simp [completed, Unchanged.refl]⟩

/-- Settles O43: 15 rows lie on distinct screen rows, so no pixel is toggled twice. -/
theorem drawLoopIsItsClosedForm : Obligations.DrawLoopIsItsClosedForm := by
  intro fb vx vy rows short
  have fits : rows.length ≤ 32 := by omega
  exact ⟨fun _ _ => ⟨Framebuffer.draw_pixel_covered fits, Framebuffer.draw_pixel_uncovered fits⟩,
    Framebuffer.draw_collided_iff fits⟩

/-- Framebuffers with the same pixels are equal. -/
theorem Framebuffer.ext_pixel {fb fb' : Framebuffer} (h : ∀ y x, fb.pixel y x = fb'.pixel y x) : fb = fb' :=
  Vector.ext fun y hy => Vector.ext fun x hx => h ⟨y, hy⟩ ⟨x, hx⟩

/-- A pixel that the sprite covers is toggled twice, any other not at all (R86). -/
theorem Framebuffer.draw_draw {vx vy : Byte} {rows : List Byte} (short : rows.length ≤ 32) (fb : Framebuffer) :
    ((fb.draw vx vy rows).1.draw vx vy rows).1 = fb := by
  refine ext_pixel fun y x => ?_
  by_cases covered : spriteCovers vx vy rows y x
  · rw [draw_pixel_covered short covered, draw_pixel_covered short covered, Bool.not_not]
  · rw [draw_pixel_uncovered short covered, draw_pixel_uncovered short covered]

/-- The second draw collides where the first one set a pixel: on a covered pixel that was unset (R86). -/
theorem Framebuffer.draw_draw_collided_iff {vx vy : Byte} {rows : List Byte} (short : rows.length ≤ 32)
    (fb : Framebuffer) : ((fb.draw vx vy rows).1.draw vx vy rows).2 = true ↔
      ∃ (y : Fin 32) (x : Fin 64), spriteCovers vx vy rows y x ∧ fb.pixel y x = false := by
  rw [draw_collided_iff short]
  refine exists₂_congr fun y x => and_congr_right fun covered => ?_
  rw [draw_pixel_covered short covered, Bool.not_eq_true']

/-- Settles O45. -/
theorem drawTwiceRestoresTheFramebuffer : Obligations.DrawTwiceRestoresTheFramebuffer := by
  intro fb vx vy rows short
  have fits : rows.length ≤ 32 := by omega
  exact ⟨Framebuffer.draw_draw fits fb, Framebuffer.draw_draw_collided_iff fits fb⟩

end Sys2Proof.Machine
end

section
/-! PROOFS. Keypad and timer instructions (45_key_timer.md R87 to R92): the key skips in range, the wait for a key, and
the timer transfers. -/

namespace Sys2Proof.Machine

/-! ## Key skips -/

/-- `completed` reads the keypad as total; in range (R87, R88) that is the key named. -/
theorem key_getD_of_lt {s : State} {k : Nat} (h : k < 16) : s.key.getD k false = s.key[k] := by
  simp [Vector.getD, h]

/-- Settles O46: PC is the only write, and the two conditions are each other's negation. -/
theorem keySkips : Obligations.KeySkips := by
  intro x s inRange
  constructor
  · exact exec_sets_pc (i := .skp x) inRange (by rw [completed, key_getD_of_lt inRange])
  · exact exec_sets_pc (i := .sknp x) inRange (by rw [completed, key_getD_of_lt inRange])

/-! ## The wait for a key -/

theorem completed_ldVxK_of_none {x : Reg} {s : State} (h : s.firstPressed = none) : completed (.ldVxK x) s = s := by
  simp only [completed, h]

theorem completed_ldVxK_of_some {x : Reg} {s : State} {k : Fin 16} (h : s.firstPressed = some k) :
    completed (.ldVxK x) s = (s.setPc (s.pc + 2)).setV x (BitVec.ofNat 8 k.val) := by
  simp only [completed, h]

theorem keyByte_toNat (k : Fin 16) : (BitVec.ofNat 8 k.val).toNat = k.val :=
  Nat.mod_eq_of_lt (k.isLt.trans (by decide))

/-- Settles O48: the keypad decides by its first pressed key, which is none or the lowest (R105). -/
theorem waitForKey : Obligations.WaitForKey := by
  intro x s
  constructor
  · intro released
    have waits := completed_ldVxK_of_none (x := x) (firstPressed_eq_none.2 released)
    exact (exec_completes (i := .ldVxK x) trivial).trans (congrArg Host.Outcome.next waits)
  · intro k pressed lowest
    have loads := completed_ldVxK_of_some (x := x) (firstPressed_eq_some.2 ⟨pressed, lowest⟩)
    obtain ⟨t, ht, hv, hpc, frame⟩ := exec_sets_reg (i := .ldVxK x) trivial loads
    exact ⟨t, ht, hv ▸ keyByte_toNat k, hpc, frame⟩

/-! ## Timer transfers -/

/-- Settles O49: each transfer is the advance and one write (the directions are D11). -/
theorem timerTransfers : Obligations.TimerTransfers := by
  intro x s
  refine ⟨?readDelay, ?writeDelay, ?writeSound⟩
  case readDelay => exact exec_sets_reg (i := .ldVxDT x) trivial rfl
  case writeDelay =>
    exact ⟨_, exec_completes (i := .ldDTVx x) trivial, rfl, rfl, by simp [completed, Unchanged.refl]⟩
  case writeSound =>
    exact ⟨_, exec_completes (i := .ldSTVx x) trivial, rfl, rfl, by simp [completed, Unchanged.refl]⟩

end Sys2Proof.Machine
end

section
/-! PROOFS. The driver's moves outside the step cycle (60_exceptions.md R100 to R104): `tick`, `key_set`, and the latch
that only `reset` clears. -/

namespace Sys2Proof.Machine

/-! ## What a move other than `step` leaves unchanged -/

/-- `stepped` notes steps alone (log 7), so any other move comes off the schedule with nothing else changed. -/
theorem popMove_unchanged_of_ne_step {s : State} (h : s.nextMove ≠ .step) : Unchanged s s.popMove [.schedule] := by
  intro p hp
  by_cases isStepped : p = .stepped
  · subst isStepped
    exact popMove_stepped h
  · exact popMove_same (by simpa using hp) isStepped s

theorem Unchanged.mono {s t : State} {but but' : List Part} (h : Unchanged s t but) (sub : but ⊆ but') :
    Unchanged s t but' := fun p hp => h p (mt (@sub p) hp)

@[simp] theorem unchanged_setKeys {s t : State} {but : List Part} {ks : Vector Bool 16} (h : .keys ∈ but) :
    Unchanged s (t.setKeys ks) but ↔ Unchanged s t but :=
  forall₂_congr fun p hp => by
    cases p with
    | keys => exact absurd h hp
    | _ => rfl

/-! ## `tick` -/

/-- The floor at 0 is that of subtraction on naturals (R103). -/
theorem tickDown_toNat (v : Byte) : (tickDown v).toNat = v.toNat - 1 := by
  unfold tickDown
  split
  case isTrue zero => subst zero; rfl
  case isFalse nonzero => bv_omega

/-- Settles O50: the two timers are `tick`'s only writes. -/
theorem tickCountsBothTimersDown : Obligations.TickCountsBothTimersDown := by
  intro s hm
  have frame : Unchanged s s.popMove [.delay, .sound, .schedule] :=
    (popMove_unchanged_of_ne_step (by simp [hm])).mono (by simp)
  exact ⟨_, step_tick hm, tickDown_toNat s.DT, tickDown_toNat s.ST,
    (unchanged_setST (by simp)).2 ((unchanged_setDT (by simp)).2 frame)⟩

/-! ## `key_set` -/

/-- Settles O51: one entry of the keypad is `key_set`'s only write. -/
theorem keySetChangesOneKey : Obligations.KeySetChangesOneKey := by
  intro k pressed s hm
  have frame : Unchanged s s.popMove [.keys, .schedule] :=
    (popMove_unchanged_of_ne_step (by simp [hm])).mono (by simp)
  refine ⟨_, step_keySet hm, Vector.getElem_set_self _, fun j other => ?_, (unchanged_setKeys (by simp)).2 frame⟩
  exact Vector.getElem_set_ne k.isLt j.isLt (Fin.val_ne_of_ne other.symm)

/-! ## The latch -/

/-- Settles O15: a halted step has no effect, and of the other moves only `reset` writes the latch (D7). -/
theorem latchedFaultStaysUntilReset : Obligations.LatchedFaultStaysUntilReset := by
  intro s t r latched h
  rcases step_cases h with ⟨hm, -⟩ | ⟨-, rfl⟩ | ⟨k, pressed, -, rfl⟩ | ⟨hm, -⟩ | ⟨image, -, -, -, rfl⟩
  · rw [step_halted hm (by simp [latched])] at h
    cases h
    exact .inl latched
  · exact .inl latched
  · exact .inl latched
  · exact .inr hm
  · exact .inl latched

end Sys2Proof.Machine
end
